-- ==== Sys2Proof/Word.lean ====
section
/-! DEFINITION. The words of the engine: bytes, 32-bit host words, and the two one-bit notions of the line
(00_scope.md R11, R14, R16). -/

namespace Sys2Proof

/-- A frame byte, a pin identifier, a retry count or a host byte offset (R11). -/
abbrev Byte := BitVec 8

/-- A host data word (R11). -/
abbrev Word := BitVec 32

/-- A line level (R16). `low` is 0 and `high` is 1 (10_state.md R20). -/
inductive Level where
  | low
  | high
  deriving DecidableEq, Repr, Inhabited

/-- A line direction (R16): input with pull-down, or output. `inPD` is 0 and `out` is 1 (10_state.md R20). -/
inductive Dir where
  | inPD
  | out
  deriving DecidableEq, Repr, Inhabited

end Sys2Proof
end

