-- ==== Sys2Proof/Syntax.lean ====
section
/-! DEFINITION. What the engine can be asked to do, as data: its operations (one constructor per row of
spec/opcode_table.json), host accesses, the three encoded forms, the draws of the environment and the events of the
execution order (30_encoding.md, 20_memory.md R64, 40_line_interface.md R108). -/

namespace Sys2Proof

/-- The outcome codes that have a name (30_encoding.md R77). Codes 9..15 are reserved and a model never holds one
(R78), so they have no constructor. -/
inductive OutCode where
  | none
  | success
  | busyLine
  | protocolFault
  | checksumMismatch
  | rangeInvalid
  | timeout
  | exhaustedRetries
  | configInvalid
  deriving DecidableEq, Repr, Inhabited

/-- A host access: `MemRead(off, width)` or `MemWrite(off, width, v)` (44_host_port.md R146). Widths other than 4
are part of the type because R158 says what a model does with them. -/
inductive Access where
  | read (width : Nat) (off : Byte)
  | write (width : Nat) (off : Byte) (v : Word)
  deriving DecidableEq, Repr, Inhabited

/-- The environment's answers to one engine step (40_line_interface.md R108): the sampled level, the time base's
value, and whether a line operation of the step failed. -/
structure Draw where
  lv : Level
  t : Nat
  err : Bool
  deriving DecidableEq, Repr, Inhabited

/-- One element of the execution order (20_memory.md R64, 70_reset_and_hazards.md R189): an engine step with its
draws, a host access, or the reset input. -/
inductive Event where
  | engine (d : Draw)
  | host (a : Access)
  | rst
  deriving DecidableEq, Repr, Inhabited

/-- The engine's operations: one constructor per row of spec/opcode_table.json. -/
inductive Instr where
  | idle
  | attemptInit
  | idleCheck
  | startLow
  | startHigh
  | ackWaitLow
  | ackWaitHigh
  | bitWaitLow
  | bitWaitHigh
  | validate
  | attemptEnd
  | rdCtrl
  | wrCtrl (v : Word)
  | start (v : Word)
  | rdStatus
  | wrStatus (v : Word)
  | rdReading
  | wrReading (v : Word)
  | rdReserved (off : Byte)
  | wrReserved (off : Byte) (v : Word)
  | refusedAccess (a : Access)
  | reset
  deriving DecidableEq, Repr, Inhabited

/-- The formats that select an operation (30_encoding.md R70): the 4-bit phase code, the host access descriptor with
its data word, and the reset signal. -/
inductive Format where
  | phase4
  | host9
  | signal
  deriving DecidableEq, Repr, Inhabited

/-- An encoded operation. A port code carries the access width beside the 9-bit descriptor `{W, off}` (R82), because
the width is not part of the descriptor and R158 depends on it; the data lines of a read carry nothing. -/
inductive Code where
  | phase (code : BitVec 4)
  | port (width : Nat) (desc : BitVec 9) (data : Word)
  | rst
  deriving DecidableEq, Repr, Inhabited

/-- Why a code selects no operation: phase codes 11..15 are reserved (10_state.md R47). -/
inductive DecodeError where
  | reservedPhase (code : BitVec 4)
  deriving DecidableEq, Repr, Inhabited

/-- The decoder's answer. -/
inductive Decoded where
  | ok (i : Instr)
  | rejected (e : DecodeError)
  deriving DecidableEq, Repr, Inhabited

/-- The format each operation is encoded in (the "format" column of spec/opcode_table.json). -/
def Instr.format : Instr → Format
  | .idle | .attemptInit | .idleCheck | .startLow | .startHigh | .ackWaitLow | .ackWaitHigh | .bitWaitLow
  | .bitWaitHigh | .validate | .attemptEnd => .phase4
  | .rdCtrl | .wrCtrl _ | .start _ | .rdStatus | .wrStatus _ | .rdReading | .wrReading _ | .rdReserved _
  | .wrReserved _ _ | .refusedAccess _ => .host9
  | .reset => .signal

/-- The format of an encoded operation. -/
def Code.format : Code → Format
  | .phase _ => .phase4
  | .port _ _ _ => .host9
  | .rst => .signal

end Sys2Proof
end

