-- ==== Sys2Proof/Decode.lean ====
section
/-! DEFINITION. The decoder and, after it, the encoder: phase codes (30_encoding.md R80), host access descriptors
(R82, R83), the reset signal; then the numbers given to the outcome codes (R77), the diag word (R94) and the
one-bit line registers (10_state.md R20). -/

namespace Sys2Proof

/-! ### The phase codes of R80, under their names -/

@[simp] abbrev Phase.idle : BitVec 4 := 0#4
@[simp] abbrev Phase.attemptInit : BitVec 4 := 1#4
@[simp] abbrev Phase.idleCheck : BitVec 4 := 2#4
@[simp] abbrev Phase.startLow : BitVec 4 := 3#4
@[simp] abbrev Phase.startHigh : BitVec 4 := 4#4
@[simp] abbrev Phase.ackWaitLow : BitVec 4 := 5#4
@[simp] abbrev Phase.ackWaitHigh : BitVec 4 := 6#4
@[simp] abbrev Phase.bitWaitLow : BitVec 4 := 7#4
@[simp] abbrev Phase.bitWaitHigh : BitVec 4 := 8#4
@[simp] abbrev Phase.validate : BitVec 4 := 9#4
@[simp] abbrev Phase.attemptEnd : BitVec 4 := 10#4

/-! ### Which accesses are served -/

/-- The width an access asks for. -/
def Access.width : Access → Nat
  | .read w _ => w
  | .write w _ _ => w

/-- The offset an access asks for. -/
def Access.off : Access → Byte
  | .read _ o => o
  | .write _ o _ => o

/-- 20_memory.md R56: 4 bytes wide, at an offset that is a multiple of 4. -/
def alignedOff (off : Byte) : Bool := off.extractLsb' 0 2 == 0#2

/-- The accesses that have a meaning: 4 bytes wide and aligned. R158 refuses every other one. -/
def Access.served (a : Access) : Bool := a.width == 4 && alignedOff a.off

/-- A reserved offset (30_encoding.md R83): a multiple of 4 other than 0x00, 0x04 and 0x08. -/
def reservedOff (off : Byte) : Bool :=
  alignedOff off && off != 0x00#8 && off != 0x04#8 && off != 0x08#8

/-! ### Decoding -/

/-- The operation a phase code names (R80). Codes 11..15 name none (10_state.md R47). -/
def decodePhase (c : BitVec 4) : Decoded :=
  match c.toNat with
  | 0 => .ok .idle
  | 1 => .ok .attemptInit
  | 2 => .ok .idleCheck
  | 3 => .ok .startLow
  | 4 => .ok .startHigh
  | 5 => .ok .ackWaitLow
  | 6 => .ok .ackWaitHigh
  | 7 => .ok .bitWaitLow
  | 8 => .ok .bitWaitHigh
  | 9 => .ok .validate
  | 10 => .ok .attemptEnd
  | _ => .rejected (.reservedPhase c)

/-- The `W` bit of a descriptor `{W, off[7:0]}` (R82): 1 for a write. -/
def descWrite (d : BitVec 9) : Bool := d.getLsbD 8

/-- The offset of a descriptor (R82). -/
def descOff (d : BitVec 9) : Byte := d.extractLsb' 0 8

/-- The access that a port code asks for (R82). -/
def accessOfPort (width : Nat) (d : BitVec 9) (data : Word) : Access :=
  if descWrite d then .write width (descOff d) data else .read width (descOff d)

/-- The read rows of R83, most specific first. -/
def decodeRead (off : Byte) : Instr :=
  if off = 0x00#8 then .rdCtrl
  else if off = 0x04#8 then .rdStatus
  else if off = 0x08#8 then .rdReading
  else .rdReserved off

/-- The write rows of R83, most specific first. Data bit 0 tells START from WR_CTRL. -/
def decodeWrite (off : Byte) (v : Word) : Instr :=
  if off = 0x00#8 then (if v.getLsbD 0 then .start v else .wrCtrl v)
  else if off = 0x04#8 then .wrStatus v
  else if off = 0x08#8 then .wrReading v
  else .wrReserved off v

/-- The operation a host access selects (R83, 44_host_port.md R158). -/
def decodeAccess (a : Access) : Instr :=
  if a.served then
    match a with
    | .read _ off => decodeRead off
    | .write _ off v => decodeWrite off v
  else .refusedAccess a

/-- The decoder: total on every code, rejecting reserved phase codes by name. -/
def decode : Code → Decoded
  | .phase c => decodePhase c
  | .port width d data => .ok (decodeAccess (accessOfPort width d data))
  | .rst => .ok .reset

/-! ### Encoding -/

/-- The descriptor `{W, off}` (R82). -/
def descOf (w : Bool) (off : Byte) : BitVec 9 := BitVec.ofBool w ++ off

/-- A host access as a port code. The data lines of a read are driven 0 (they carry nothing). -/
def codeOfAccess : Access → Code
  | .read width off => .port width (descOf false off) 0
  | .write width off v => .port width (descOf true off) v

/-- The encoder, from the same tables (R80, R83). -/
def encode : Instr → Code
  | .idle => .phase Phase.idle
  | .attemptInit => .phase Phase.attemptInit
  | .idleCheck => .phase Phase.idleCheck
  | .startLow => .phase Phase.startLow
  | .startHigh => .phase Phase.startHigh
  | .ackWaitLow => .phase Phase.ackWaitLow
  | .ackWaitHigh => .phase Phase.ackWaitHigh
  | .bitWaitLow => .phase Phase.bitWaitLow
  | .bitWaitHigh => .phase Phase.bitWaitHigh
  | .validate => .phase Phase.validate
  | .attemptEnd => .phase Phase.attemptEnd
  | .rdCtrl => codeOfAccess (.read 4 0x00#8)
  | .wrCtrl v => codeOfAccess (.write 4 0x00#8 v)
  | .start v => codeOfAccess (.write 4 0x00#8 v)
  | .rdStatus => codeOfAccess (.read 4 0x04#8)
  | .wrStatus v => codeOfAccess (.write 4 0x04#8 v)
  | .rdReading => codeOfAccess (.read 4 0x08#8)
  | .wrReading v => codeOfAccess (.write 4 0x08#8 v)
  | .rdReserved off => codeOfAccess (.read 4 off)
  | .wrReserved off v => codeOfAccess (.write 4 off v)
  | .refusedAccess a => codeOfAccess a
  | .reset => .rst

/-- A code as the encoder writes it: the data lines of a read are 0. Every other code is as it stands. -/
def Code.normal : Code → Code
  | .port width d data => .port width d (if descWrite d then data else 0)
  | c => c

/-! ### The table's bit numbering -/

/-- The code whose bits are `w`, numbered as spec/opcode_table.json numbers them (log entry 8). A phase code stands in
the low 4 bits of one byte; a port code has its descriptor in bits 8:0 of the first 16 bits and its data word in the
32 bits above them, 4 bytes wide; the reset signal has no bits. -/
def codeOfTableWord (nbits w : Nat) : Option Code :=
  if nbits = 0 then
    if w = 0 then some .rst else none
  else if nbits ≤ 8 then
    if w < 16 then some (.phase (BitVec.ofNat 4 w)) else none
  else if nbits ≤ 48 ∧ w % 65536 < 512 ∧ w < 281474976710656 then
    some (.port 4 (BitVec.ofNat 9 w) (BitVec.ofNat 32 (w / 65536)))
  else none

/-- The instruction the decoder reads from a table word. -/
def decodeTableWord (nbits w : Nat) : Option Instr :=
  match codeOfTableWord nbits w with
  | none => none
  | some c =>
    match decode c with
    | .ok i => some i
    | .rejected _ => none

/-! ### Codes of values -/

/-- The 4-bit outcome code (R77). -/
def OutCode.code : OutCode → BitVec 4
  | .none => 0#4
  | .success => 1#4
  | .busyLine => 2#4
  | .protocolFault => 3#4
  | .checksumMismatch => 4#4
  | .rangeInvalid => 5#4
  | .timeout => 6#4
  | .exhaustedRetries => 7#4
  | .configInvalid => 8#4

/-- The name of a 4-bit outcome code; codes 9..15 are reserved (R78). -/
def OutCode.ofCode (c : BitVec 4) : Option OutCode :=
  match c.toNat with
  | 0 => some .none
  | 1 => some .success
  | 2 => some .busyLine
  | 3 => some .protocolFault
  | 4 => some .checksumMismatch
  | 5 => some .rangeInvalid
  | 6 => some .timeout
  | 7 => some .exhaustedRetries
  | 8 => some .configInvalid
  | _ => Option.none

/-- The kinds of R79: the outcome of a failed attempt (codes 2..6). -/
def OutCode.isFailure : OutCode → Bool
  | .busyLine | .protocolFault | .checksumMismatch | .rangeInvalid | .timeout => true
  | .none | .success | .exhaustedRetries | .configInvalid => false

/-- R79: the codes `att_out` can hold (0..6). -/
def OutCode.isAttempt (c : OutCode) : Bool := c.isFailure || c == .none || c == .success

/-- R79: the codes `result` can hold (0, 1, 7, 8). -/
def OutCode.isResult : OutCode → Bool
  | .none | .success | .exhaustedRetries | .configInvalid => true
  | .busyLine | .protocolFault | .checksumMismatch | .rangeInvalid | .timeout => false

/-- The one-bit form of a level and of a direction (10_state.md R20). -/
def Level.bit : Level → BitVec 1
  | .low => 0#1
  | .high => 1#1

def Dir.bit : Dir → BitVec 1
  | .inPD => 0#1
  | .out => 1#1

end Sys2Proof
end

