-- ==== Sys2Proof/Config.lean ====
section
/-! DEFINITION. What is fixed for one engine: the implementation parameters of 00_scope.md R9 with their constraints
(R10), the open parameters on which no rule depends, and the one free value of the model. -/

namespace Sys2Proof

/-- The implementation parameters, with the defaults of 00_scope.md R9. `waitTimeoutUs = none` is the spec's `NONE`,
the unbounded baseline (41_protocol_driver.md R122). -/
structure Params where
  nIdleSamples : Nat := 10
  tIdleSampleMs : Nat := 10
  tStartLowMs : Nat := 18
  tStartHighUs : Nat := 40
  bitThresholdUs : Nat := 40
  waitTimeoutUs : Option Nat := some 1000
  defaultMaxRetries : Nat := 5
  tsBits : Nat := 32
  deriving DecidableEq, Repr

/-- The bound constraint of R10: `NONE`, or `BIT_THRESHOLD_US < WAIT_TIMEOUT_US < 2^TS_BITS`. -/
def Params.timeoutOk (p : Params) : Bool :=
  match p.waitTimeoutUs with
  | none => true
  | some w => decide (p.bitThresholdUs < w) && decide (w < 2 ^ p.tsBits)

/-- The constraints of 00_scope.md R10. A configuration that breaks one has no meaning. -/
def Params.ok (p : Params) : Bool :=
  decide (1 ≤ p.nIdleSamples) && decide (p.nIdleSamples ≤ 15) &&
  decide (1 ≤ p.bitThresholdUs) && decide (p.bitThresholdUs < 2 ^ p.tsBits) &&
  p.timeoutOk &&
  decide (1 ≤ p.defaultMaxRetries) && decide (p.defaultMaxRetries ≤ 255) &&
  decide (8 ≤ p.tsBits)

/-- FREE VALUE (log entry 1, DESIGN CHOICE, safe). What happens next once the recorded events are used up: which
agent moves, what the host asks, and how the environment answers (20_memory.md R64, 40_line_interface.md R98, R99,
R101). Applied to the counter `State.freeCount`; it has no body, so no proof can see a value of it. -/
opaque Config.freeEvent : Nat → Event

/-- OPEN (20_memory.md R61): where the 256-byte window sits. No rule depends on it. -/
opaque Config.engineBase : Nat

/-- OPEN (40_line_interface.md R100): which physical line a pin identifier names, if any. No rule depends on it. -/
opaque Config.pinMap : Byte → Option Nat

/-- OPEN (70_reset_and_hazards.md R197): the engine's poll period. No rule depends on it. -/
opaque Config.pollPeriodNs : Nat

/-- The platform address of a host offset (R61): the window's base plus the offset. -/
def Config.busAddress (off : Byte) : Nat :=
  Config.engineBase + off.toNat

end Sys2Proof
end

