-- ==== Sys2Proof/Machine/State.lean ====
section
/-! DEFINITION. The state: the engine's named elements (10_state.md R20), its diagnostic history (R38), and beside
them the model's own fields for what the spec hands to a step from outside (R44): the parameters, the draws, the
execution order, and what an event put out. State is plain data. -/

namespace Sys2Proof.Machine

/-- The RawFrame (10_state.md R33): five bytes, byte 0 received first. -/
structure Frame where
  b0 : Byte
  b1 : Byte
  b2 : Byte
  b3 : Byte
  b4 : Byte
  deriving DecidableEq, Repr

/-- The frame before capture: all ones (R33). -/
def Frame.fresh : Frame :=
  { b0 := 0xFF#8, b1 := 0xFF#8, b2 := 0xFF#8, b3 := 0xFF#8, b4 := 0xFF#8 }

/-- The engine's state elements: the table of 10_state.md R20, in its order. `tMark` is a `TS_BITS`-bit value held as
a number below `2^TS_BITS`, since that width is a parameter (log entry 4). -/
structure Engine where
  phase : BitVec 4
  busy : Bool
  done : Bool
  valid : Bool
  ovr : Bool
  result : OutCode
  lastFail : OutCode
  attempt : BitVec 8
  bitCount : BitVec 6
  idleCount : BitVec 4
  cfgMaxRetries : BitVec 8
  cfgPin : Byte
  readingHum : BitVec 16
  readingTemp : BitVec 16
  frame : Frame
  tMark : Nat
  attOut : OutCode
  lineDir : Dir
  lineDrv : Level
  deriving DecidableEq, Repr

/-- The reset values of 10_state.md R45: every element, no exceptions. -/
def Engine.reset (p : Params) : Engine :=
  { phase := 0#4, busy := false, done := false, valid := false, ovr := false
    result := .none, lastFail := .none, attempt := 0#8, bitCount := 0#6, idleCount := 0#4
    cfgMaxRetries := BitVec.ofNat 8 p.defaultMaxRetries, cfgPin := 0#8
    readingHum := 0#16, readingTemp := 0#16, frame := Frame.fresh, tMark := 0
    attOut := .none, lineDir := .inPD, lineDrv := .low }

/-- A diagnostic event `Diag(attempt, outcome)` (43_retry_controller.md R138). -/
structure Diag where
  attempt : BitVec 8
  outcome : OutCode
  deriving DecidableEq, Repr

/-- A primitive the engine issues to its environment (00_scope.md R16). Every line operation carries the pin
(40_line_interface.md R100). -/
inductive Prim where
  | setDir (pin : Byte) (d : Dir)
  | writeLevel (pin : Byte) (l : Level)
  | readLevel (pin : Byte)
  | now
  | sleepMs (n : Nat)
  | sleepUs (n : Nat)
  deriving DecidableEq, Repr

/-- The machine. `eng` and `diag` are the spec's; the rest are the model's own (INVENTORY.md, State).
* `par`: this instance's parameters (00_scope.md R9); no step changes them.
* `draw`: the environment's answers for the engine step being performed (R108).
* `pending`: the events that come next in the execution order, oldest first (R64; log entry 1).
* `freeCount`: how many free events have been drawn beyond the end of `pending` (log entry 1).
* `issued`: the primitives the latest event issued, in order (log entry 3).
* `readData`: the value the latest event returned to the host, if it was a read (R146; log entry 3). -/
structure State where
  eng : Engine
  diag : List Diag
  par : Params
  draw : Draw
  pending : List Event
  freeCount : Nat
  issued : List Prim
  readData : Option Word
  deriving DecidableEq, Repr

/-- Why the machine is stuck. -/
inductive Fault where
  /-- Raised by `step` when an engine step is due and `phase` holds a reserved code: "a model that constructs such a
  state anyway must treat it as stuck" (10_state.md R47). No run reaches it (R46). Safe. -/
  | reservedPhase (code : BitVec 4)
  /-- Raised by BIT_WAIT_HIGH when a falling edge is seen with `bit_count` at 40 or more: the frame has no such bit
  (41_protocol_driver.md R118 gives the effect for k in 0..39 only). No run reaches it (R46). Safe. Log entry 6. -/
  | noFrameBit (k : BitVec 6)
  deriving DecidableEq, Repr

/-- Why the model gives no meaning. -/
inductive Refusal where
  /-- An instruction whose meaning has not been written. No arm of `exec` raises it. Safe. -/
  | notModelled (mnemonic : String)
  /-- Raised by REFUSED_ACCESS: a host access of another width than 4 bytes or at a misaligned offset (44_host_port.md
  R158, "A model must refuse such an access"). Safe. -/
  | hostAccess (a : Access)
  /-- Raised by `step`: a configuration that breaks a constraint of 00_scope.md R10 is refused. Safe. -/
  | badConfiguration (p : Params)
  deriving DecidableEq, Repr

/-- The machine right after power-on reset: the engine at the values of R45 under the default parameters, nothing
emitted, nothing recorded to come (log entries 1, 2, 3, 11). -/
def State.reset : State :=
  { eng := Engine.reset {}
    diag := []
    par := {}
    draw := { lv := .low, t := 0, err := false }
    pending := []
    freeCount := 0
    issued := []
    readData := none }

end Sys2Proof.Machine
end

