-- ==== Sys2Proof/Machine/Operands.lean ====
section
/-! DEFINITION. Operand forms: the fields of a CTRL write, the host register words, the frame's bytes and bits, the
decoded tenths (30_encoding.md R73, R84, R85, R94; 10_state.md R40 to R42; 42_frame_validator.md R126). -/

namespace Sys2Proof.Machine

/-! ### CTRL (R84) -/

/-- `START = v[0]`. -/
def ctrlStart (v : Word) : Bool := v.getLsbD 0

/-- `MAX_RETRIES = v[15:8]`. -/
def ctrlRetries (v : Word) : BitVec 8 := v.extractLsb' 8 8

/-- `PIN = v[23:16]`. -/
def ctrlPin (v : Word) : Byte := v.extractLsb' 16 8

/-- What CTRL reads: `{8'b0, cfg_pin, cfg_max_retries, 8'b0}` (R40). START always reads 0. -/
def Engine.ctrlWord (e : Engine) : Word :=
  0#8 ++ e.cfgPin ++ e.cfgMaxRetries ++ 0#8

/-! ### STATUS (R41) and READING (R42, R85) -/

/-- `OVR` of a STATUS write is `v[3]` (44_host_port.md R153). -/
def statusOvr (v : Word) : Bool := v.getLsbD 3

/-- `{2'b0, bit_count, attempt, last_fail, result, phase, ovr, valid, done, busy}` (R41). -/
def Engine.statusWord (e : Engine) : Word :=
  0#2 ++ e.bitCount ++ e.attempt ++ e.lastFail.code ++ e.result.code ++ e.phase ++
    BitVec.ofBool e.ovr ++ BitVec.ofBool e.valid ++ BitVec.ofBool e.done ++ BitVec.ofBool e.busy

/-- `valid ? {reading_temp, reading_hum} : 0` (R42). -/
def Engine.readingWord (e : Engine) : Word :=
  if e.valid then e.readingTemp ++ e.readingHum else 0#32

/-- The level output `done_o` (60_exceptions.md R171). -/
def State.doneO (s : State) : Bool := s.eng.done

/-! ### The frame (R73) -/

/-- Byte `j` of the frame. -/
def Frame.byte (f : Frame) (j : Fin 5) : Byte :=
  match j with
  | 0 => f.b0
  | 1 => f.b1
  | 2 => f.b2
  | 3 => f.b3
  | 4 => f.b4

/-- The frame with byte `j` replaced. -/
def Frame.setByte (f : Frame) (j : Fin 5) (v : Byte) : Frame :=
  match j with
  | 0 => { f with b0 := v }
  | 1 => { f with b1 := v }
  | 2 => { f with b2 := v }
  | 3 => { f with b3 := v }
  | 4 => { f with b4 := v }

/-- `byte(k) = k div 8`. -/
def captureByte (k : Fin 40) : Fin 5 := ⟨k.val / 8, by omega⟩

/-- `pos(k) = 7 - (k mod 8)`. -/
def capturePos (k : Fin 40) : Nat := 7 - k.val % 8

/-- The frame's bit for capture bit `k`. -/
def Frame.bit (f : Frame) (k : Fin 40) : Bool :=
  (f.byte (captureByte k)).getLsbD (capturePos k)

/-- `frame[k div 8] AND NOT (1 << (7 - (k mod 8)))` (41_protocol_driver.md R118). -/
def Frame.clearBit (f : Frame) (k : Fin 40) : Frame :=
  f.setByte (captureByte k) (f.byte (captureByte k) &&& ~~~(1#8 <<< capturePos k))

/-- The frame after capture bit `k` was decoded as `b` (R118): a 0 clears its bit, a 1 writes nothing. -/
def Frame.capture (f : Frame) (k : Fin 40) (b : Bool) : Frame :=
  match b with
  | true => f
  | false => f.clearBit k

/-- The frame as a 40-bit number, byte 0 most significant (R73). -/
def Frame.number (f : Frame) : BitVec 40 := f.b0 ++ f.b1 ++ f.b2 ++ f.b3 ++ f.b4

/-! ### Tenths (R126) -/

/-- `HUM10(f) = 10·f[0] + f[1]`. -/
def Frame.hum10 (f : Frame) : Nat := 10 * f.b0.toNat + f.b1.toNat

/-- `TEMP10(f) = 10·f[2] + f[3]`. -/
def Frame.temp10 (f : Frame) : Nat := 10 * f.b2.toNat + f.b3.toNat

/-! ### The diag word (R94) -/

/-- `{a[7:0], c[3:0]}`. -/
def Diag.word (d : Diag) : BitVec 12 := d.attempt ++ d.outcome.code

end Sys2Proof.Machine
end

