-- ==== Sys2Proof/Machine/Flags.lean ====
section
/-! DEFINITION. The tests the engine's decisions rest on: modular elapsed time (30_encoding.md R86), the wait bound
(41_protocol_driver.md R110), the pulse-width decoder (R119), the checksum and the range check
(42_frame_validator.md R125, R127). -/

namespace Sys2Proof.Machine

/-- `elapsed(t, m) = (t - m) mod 2^TS_BITS` (R86), computed exactly and then reduced. -/
def elapsed (tsBits t m : Nat) : Nat :=
  (((t : Int) - (m : Int)) % ((2 ^ tsBits : Nat) : Int)).toNat

/-- Whether the wait bound is reached after `d` µs (R110): never with `NONE` (R122). -/
def timedOut (p : Params) (d : Nat) : Bool :=
  match p.waitTimeoutUs with
  | none => false
  | some w => decide (w ≤ d)

/-- The pulse-width decoder `PW(d) = (d < BIT_THRESHOLD_US) ? 0 : 1` (R119). -/
def pulseBit (p : Params) (d : Nat) : Bool := !decide (d < p.bitThresholdUs)

/-- `CS(f) = (f[0] + f[1] + f[2] + f[3]) mod 256` (R125), summed exactly before the reduction. -/
def Frame.checksum (f : Frame) : Nat :=
  (f.b0.toNat + f.b1.toNat + f.b2.toNat + f.b3.toNat) % 256

/-- The frame passes when `CS(f) = f[4]` (R125). -/
def Frame.checksumOk (f : Frame) : Bool := f.checksum == f.b4.toNat

/-- `INRANGE(f) = (0 ≤ HUM10(f) ≤ 1000) and (-400 ≤ TEMP10(f) ≤ 800)` (R127), both intervals closed. -/
def Frame.inRange (f : Frame) : Bool :=
  decide ((0 : Int) ≤ f.hum10) && decide ((f.hum10 : Int) ≤ 1000) &&
  decide ((-400 : Int) ≤ f.temp10) && decide ((f.temp10 : Int) ≤ 800)

/-- VALIDATE's verdict (R128, R129): the checksum first, the range second. -/
def Frame.verdict (f : Frame) : OutCode :=
  if f.checksumOk then (if f.inRange then .success else .rangeInvalid) else .checksumMismatch

end Sys2Proof.Machine
end

