-- ==== Sys2Proof/Machine/Ops.lean ====
section
/-! DEFINITION. The shared operations: the time base, issuing primitives, the abort (the engine's only exception
entry, 60_exceptions.md R173) and the two returns from it (R176), answering the host, the common wait
(41_protocol_driver.md R110), and the next event of the execution order with the code it selects. -/

namespace Sys2Proof.Machine

/-- The outcome of a step of this machine. -/
abbrev Result := Host.Outcome State Fault Refusal

/-! ### Environment primitives -/

/-- `Now()` (40_line_interface.md R101): the drawn time, in `TS_BITS` bits. -/
def State.now (s : State) : Nat := s.draw.t % 2 ^ s.par.tsBits

/-- Record the primitives this step issues (log entry 3). -/
def State.issue (s : State) (ps : List Prim) : State := { s with issued := ps }

/-- `Emit(Diag(a, c))` (00_scope.md R16, 43_retry_controller.md R138): append to the history. -/
def State.emit (s : State) (d : Diag) : State := { s with diag := s.diag ++ [d] }

/-! ### The abort and the return from it -/

/-- `raise Outcome(c)` (00_scope.md R16, 60_exceptions.md R173): the outcome is saved in `att_out` and the next phase
is ATTEMPT_END. Nothing else is saved or changed. -/
def State.raise (s : State) (c : OutCode) : State :=
  { s with eng.attOut := c, eng.phase := Phase.attemptEnd }

/-- The end of a transaction with result `r` (43_retry_controller.md R137): DONE, not BUSY, VALID as given, IDLE. -/
def State.finish (s : State) (r : OutCode) (v : Bool) : State :=
  { s with eng.result := r, eng.valid := v, eng.done := true, eng.busy := false, eng.phase := Phase.idle }

/-- The return to a new attempt (R137, 60_exceptions.md R176): nothing is restored. -/
def State.retry (s : State) : State := { s with eng.phase := Phase.attemptInit }

/-! ### The host port -/

/-- Return a word to the host (44_host_port.md R146). Reads have no other effect (20_memory.md R59). -/
def State.answer (s : State) (w : Word) : State := { s with readData := some w }

/-- Any CTRL write while busy (44_host_port.md R148): a START in it sets OVR, nothing else happens. -/
def State.ctrlBusy (s : State) (v : Word) : State :=
  if ctrlStart v then { s with eng.ovr := true } else s

/-- Store the configuration fields of a CTRL write (44_host_port.md R149). -/
def State.configure (s : State) (v : Word) : State :=
  { s with eng.cfgMaxRetries := ctrlRetries v, eng.cfgPin := ctrlPin v }

/-- Discard the previous transaction's result (44_host_port.md R150, R152). -/
def State.discardResult (s : State) : State :=
  { s with eng.valid := false, eng.lastFail := .none, eng.attempt := 0#8, eng.bitCount := 0#6,
           eng.readingHum := 0#16, eng.readingTemp := 0#16 }

/-! ### The common wait (R110) -/

/-- One poll of `WAIT(h, exit)`: the line error first, then the awaited level, then the bound (60_exceptions.md
R172). A poll that meets none of them changes nothing. -/
def wait (h : Level) (onExit : Nat → State → Result) (s : State) : Result :=
  let s' := s.issue [.readLevel s.eng.cfgPin, .now]
  if s.draw.err then .next (s'.raise .protocolFault)
  else if s.draw.lv ≠ h then onExit s.now s'
  else if timedOut s.par (elapsed s.par.tsBits s.now s.eng.tMark) then .next (s'.raise .timeout)
  else .next s'

/-- The exit of a wait that only enters the next wait phase: its entry time and its phase (R115 to R117). -/
def State.enter (s : State) (t : Nat) (p : BitVec 4) : State :=
  { s with eng.tMark := t, eng.phase := p }

/-! ### The execution order and the fetch -/

/-- The next event of the execution order (20_memory.md R64) and the order that is left: the oldest recorded event,
or a free one (log entry 1). -/
def State.nextEvent (s : State) : Event × State :=
  match s.pending with
  | e :: rest => (e, { s with pending := rest })
  | [] => (Config.freeEvent s.freeCount, { s with freeCount := s.freeCount + 1 })

/-- Begin an event: an engine step takes its draws (40_line_interface.md R108), and nothing has been issued or
returned yet. -/
def State.begin (s : State) (e : Event) : State :=
  match e with
  | .engine d => { s with draw := d, issued := [], readData := none }
  | .host _ | .rst => { s with issued := [], readData := none }

/-- The code an event selects: the phase register's for an engine step (10_state.md R21), the descriptor of a host
access (30_encoding.md R82), or the reset signal. -/
def fetchCode (e : Event) (s : State) : Code :=
  match e with
  | .engine _ => .phase s.eng.phase
  | .host a => codeOfAccess a
  | .rst => .rst

/-- Put a code where the next step finds it: a phase code in the phase register with an engine step due (on the draws
the state holds), a port code as the host's next access, the reset signal as the next event. -/
def State.place (s : State) (c : Code) : State :=
  match c with
  | .phase p => { s with eng.phase := p, pending := .engine s.draw :: s.pending }
  | .port width d data => { s with pending := .host (accessOfPort width d data) :: s.pending }
  | .rst => { s with pending := .rst :: s.pending }

end Sys2Proof.Machine
end

