-- ==== Sys2Proof/Machine/Driver.lean ====
section
/-! DEFINITION. The Protocol Driver, phases 1 to 8 (41_protocol_driver.md R111 to R118). -/

namespace Sys2Proof.Machine

/-- The writes of ATTEMPT_INIT that happen whether or not the direction change fails (R111). -/
def State.freshAttempt (s : State) : State :=
  { s.issue [.setDir s.eng.cfgPin .inPD] with
    eng.attempt := s.eng.attempt + 1#8
    eng.frame := Frame.fresh
    eng.bitCount := 0#6
    eng.idleCount := 0#4 }

/-- ATTEMPT_INIT (R111). -/
def execAttemptInit (s : State) : Result :=
  if s.draw.err then .next (s.freshAttempt.raise .protocolFault)
  else .next { s.freshAttempt with eng.attOut := .none, eng.lineDir := .inPD, eng.phase := Phase.idleCheck }

/-- A High sample of IDLE_CHECK is counted after its delay (R112). -/
def State.countSample (s : State) : State :=
  { s.issue [.readLevel s.eng.cfgPin, .sleepMs s.par.tIdleSampleMs] with eng.idleCount := s.eng.idleCount + 1#4 }

/-- IDLE_CHECK (R112): one sample. The count is tested on the old value plus one, exactly. -/
def execIdleCheck (s : State) : Result :=
  if s.draw.err then .next ((s.issue [.readLevel s.eng.cfgPin]).raise .protocolFault)
  else match s.draw.lv with
    | .low => .next ((s.issue [.readLevel s.eng.cfgPin]).raise .busyLine)
    | .high =>
      if s.eng.idleCount.toNat + 1 = s.par.nIdleSamples then
        .next { s.countSample with eng.phase := Phase.startLow }
      else .next s.countSample

/-- START_LOW (R113): output, Low, and the start pulse's Low time. -/
def execStartLow (s : State) : Result :=
  if s.draw.err then
    .next ((s.issue [.setDir s.eng.cfgPin .out, .writeLevel s.eng.cfgPin .low]).raise .protocolFault)
  else
    .next { s.issue [.setDir s.eng.cfgPin .out, .writeLevel s.eng.cfgPin .low, .sleepMs s.par.tStartLowMs] with
            eng.lineDir := .out, eng.lineDrv := .low, eng.phase := Phase.startHigh }

/-- START_HIGH (R114): High, then back to input; the entry time of ACK_WAIT_LOW is taken last. -/
def execStartHigh (s : State) : Result :=
  let s' := s.issue [.writeLevel s.eng.cfgPin .high, .sleepUs s.par.tStartHighUs, .setDir s.eng.cfgPin .inPD, .now]
  if s.draw.err then .next (s'.raise .protocolFault)
  else .next { s' with eng.lineDrv := .high, eng.lineDir := .inPD, eng.tMark := s.now, eng.phase := Phase.ackWaitLow }

/-- ACK_WAIT_LOW (R115): wait while High. -/
def execAckWaitLow (s : State) : Result :=
  wait .high (fun t s' => .next (s'.enter t Phase.ackWaitHigh)) s

/-- ACK_WAIT_HIGH (R116): wait while Low. -/
def execAckWaitHigh (s : State) : Result :=
  wait .low (fun t s' => .next (s'.enter t Phase.bitWaitLow)) s

/-- BIT_WAIT_LOW (R117): wait while Low; the poll that sees the rising edge gives the bit's start time. -/
def execBitWaitLow (s : State) : Result :=
  wait .low (fun t s' => .next (s'.enter t Phase.bitWaitHigh)) s

/-- The exit of BIT_WAIT_HIGH for capture bit `k` (R118): a 0 clears the bit, a 1 leaves the frame. -/
def captureBit (k : Fin 40) (t : Nat) (s : State) : State :=
  { s with
    eng.frame := s.eng.frame.capture k (pulseBit s.par (elapsed s.par.tsBits t s.eng.tMark))
    eng.bitCount := BitVec.ofNat 6 (k.val + 1)
    eng.tMark := t
    eng.phase := if k.val + 1 = 40 then Phase.validate else Phase.bitWaitLow }

/-- BIT_WAIT_HIGH (R118): wait while High, then decode one bit. The frame has no bit for a `bit_count` of 40 or more
(log entry 6). -/
def execBitWaitHigh (s : State) : Result :=
  wait .high
    (fun t s' =>
      if h : s'.eng.bitCount.toNat < 40 then .next (captureBit ⟨s'.eng.bitCount.toNat, h⟩ t s')
      else .fault (.noFrameBit s'.eng.bitCount)) s

end Sys2Proof.Machine
end

