-- ==== Sys2Proof/Machine/HostPort.lean ====
section
/-! DEFINITION. The host port (44_host_port.md R147 to R158). -/

namespace Sys2Proof.Machine

/-- RD_CTRL (R147). -/
def execRdCtrl (s : State) : Result := .next (s.answer s.eng.ctrlWord)

/-- WR_CTRL (R149; R148 while busy). -/
def execWrCtrl (v : Word) (s : State) : Result :=
  if s.eng.busy then .next (s.ctrlBusy v) else .next (s.configure v)

/-- START accepted (R152): the configuration written in the same word is the one the transaction uses. -/
def State.startAccepted (s : State) (v : Word) : State :=
  { (s.configure v).discardResult with
    eng.busy := true, eng.done := false, eng.result := .none, eng.phase := Phase.attemptInit }

/-- START refused for MAX_RETRIES = 0 (R150): BUSY stays 0 and the phase stays as it is. -/
def State.startRefused (s : State) (v : Word) : State :=
  { (s.configure v).discardResult with eng.result := .configInvalid, eng.done := true }

/-- START (R152; R150 for zero retries; R148 while busy). The test of BUSY and its setting are one event (R67). -/
def execStart (v : Word) (s : State) : Result :=
  if s.eng.busy then .next (s.ctrlBusy v)
  else if ctrlRetries v = 0#8 then .next (s.startRefused v)
  else .next (s.startAccepted v)

/-- RD_STATUS (R151): all fields from one state. -/
def execRdStatus (s : State) : Result := .next (s.answer s.eng.statusWord)

/-- WR_STATUS (R153): OVR is write-1-to-clear. -/
def execWrStatus (v : Word) (s : State) : Result :=
  if statusOvr v then .next { s with eng.ovr := false } else .next s

/-- RD_READING (R154). -/
def execRdReading (s : State) : Result := .next (s.answer s.eng.readingWord)

/-- WR_READING (R155): READING is read-only and the write is ignored. -/
def execWrReading (_v : Word) (s : State) : Result := .next s

/-- RD_RESERVED (R156). -/
def execRdReserved (_off : Byte) (s : State) : Result := .next (s.answer 0#32)

/-- WR_RESERVED (R157). -/
def execWrReserved (_off : Byte) (_v : Word) (s : State) : Result := .next s

/-- REFUSED_ACCESS (R158): no transition, and the model's refusal mark. -/
def execRefusedAccess (a : Access) (_s : State) : Result := .refused (.hostAccess a)

end Sys2Proof.Machine
end

