-- ==== Sys2Proof/Machine/Reset.lean ====
section
/-! DEFINITION. The reset operation (70_reset_and_hazards.md R189). -/

namespace Sys2Proof.Machine

/-- RESET (R189): every engine element to its value of R45, and the line released with any error ignored. The diag
history already emitted stays (10_state.md R38). The release carries the pin held before the reset (log entry 5). -/
def execReset (s : State) : Result :=
  .next { s.issue [.setDir s.eng.cfgPin .inPD] with eng := Engine.reset s.par }

end Sys2Proof.Machine
end

