-- ==== Sys2Proof/Machine/Retry.lean ====
section
/-! DEFINITION. The Retry Controller, phases 0 and 10 (43_retry_controller.md R136, R137). -/

namespace Sys2Proof.Machine

/-- IDLE (R136): no engine step is enabled. The engine is quiescent, not stuck: offered a step, it changes nothing. -/
def execIdle (s : State) : Result := .next s

/-- The release of the line (R137, R143): an error here is ignored. -/
def State.release (s : State) : State :=
  let s' := s.issue [.setDir s.eng.cfgPin .inPD]
  if s.draw.err then s' else { s' with eng.lineDir := .inPD }

/-- A failed attempt's record (R137, R138): LAST_FAIL and one diag event. -/
def State.recordFailure (s : State) (c : OutCode) : State :=
  { s with eng.lastFail := c }.emit { attempt := s.eng.attempt, outcome := c }

/-- ATTEMPT_END (R137): consume the outcome, and end the transaction or start the next attempt. -/
def execAttemptEnd (s : State) : Result :=
  let s' := s.release
  if s.eng.attOut = .success then .next (s'.finish .success true)
  else
    let s'' := s'.recordFailure s.eng.attOut
    if s.eng.cfgMaxRetries.toNat ≤ s.eng.attempt.toNat then .next (s''.finish .exhaustedRetries false)
    else .next s''.retry

end Sys2Proof.Machine
end

