-- ==== Sys2Proof/Machine/Validator.lean ====
section
/-! DEFINITION. The Frame Validator, phase 9 (42_frame_validator.md R128). -/

namespace Sys2Proof.Machine

/-- VALIDATE (R128): the reading registers are written only on SUCCESS (R129). It takes no draw and issues no
primitive (R130, 40_line_interface.md R99). -/
def execValidate (s : State) : Result :=
  let f := s.eng.frame
  let s' := { s with eng.attOut := f.verdict, eng.phase := Phase.attemptEnd }
  if f.verdict = .success then
    .next { s' with eng.readingHum := BitVec.ofNat 16 f.hum10, eng.readingTemp := BitVec.ofNat 16 f.temp10 }
  else .next s'

end Sys2Proof.Machine
end

