-- ==== Sys2Proof/Machine/Dispatch.lean ====
section
/-! DEFINITION. Which meaning each operation has. -/

namespace Sys2Proof.Machine

def exec (i : Instr) (s : State) : Host.Outcome State Fault Refusal :=
  match i with
  -- the Retry Controller and the Protocol Driver (phases 0 to 8)
  | .idle => Sys2Proof.Machine.execIdle s
  | .attemptInit => Sys2Proof.Machine.execAttemptInit s
  | .idleCheck => Sys2Proof.Machine.execIdleCheck s
  | .startLow => Sys2Proof.Machine.execStartLow s
  | .startHigh => Sys2Proof.Machine.execStartHigh s
  | .ackWaitLow => Sys2Proof.Machine.execAckWaitLow s
  | .ackWaitHigh => Sys2Proof.Machine.execAckWaitHigh s
  | .bitWaitLow => Sys2Proof.Machine.execBitWaitLow s
  | .bitWaitHigh => Sys2Proof.Machine.execBitWaitHigh s
  -- the Frame Validator and the end of the attempt (phases 9 and 10)
  | .validate => Sys2Proof.Machine.execValidate s
  | .attemptEnd => Sys2Proof.Machine.execAttemptEnd s
  -- the host port
  | .rdCtrl => Sys2Proof.Machine.execRdCtrl s
  | .wrCtrl v => Sys2Proof.Machine.execWrCtrl v s
  | .start v => Sys2Proof.Machine.execStart v s
  | .rdStatus => Sys2Proof.Machine.execRdStatus s
  | .wrStatus v => Sys2Proof.Machine.execWrStatus v s
  | .rdReading => Sys2Proof.Machine.execRdReading s
  | .wrReading v => Sys2Proof.Machine.execWrReading v s
  | .rdReserved off => Sys2Proof.Machine.execRdReserved off s
  | .wrReserved off v => Sys2Proof.Machine.execWrReserved off v s
  | .refusedAccess a => Sys2Proof.Machine.execRefusedAccess a s
  -- reset
  | .reset => Sys2Proof.Machine.execReset s

end Sys2Proof.Machine
end

