-- ==== Sys2Proof/Machine/Step.lean ====
section
/-! DEFINITION. One step of the machine: the next event of the execution order (20_memory.md R64) selects an
operation, and the operation runs. -/

namespace Sys2Proof.Machine

/-- One event. A configuration that breaks 00_scope.md R10 is refused; an engine step on a reserved phase code is
stuck (10_state.md R47). -/
def step (s : State) : Host.Outcome State Fault Refusal :=
  if s.par.ok then
    match decode (fetchCode s.nextEvent.1 s) with
    | .ok i => exec i (s.nextEvent.2.begin s.nextEvent.1)
    | .rejected (.reservedPhase c) => .fault (.reservedPhase c)
  else .refused (.badConfiguration s.par)

/-- The state whose very next step runs the instruction with the given table word (log entry 8). A word that is no
code of its format places nothing. -/
def State.withFetchWord (s : State) (nbits w : Nat) : State :=
  match codeOfTableWord nbits w with
  | some c => s.place c
  | none => s

end Sys2Proof.Machine
end

