-- ==== Sys2Proof/Machine/Script.lean ====
section
/-! DEFINITION. The host's side of the port as notation: the scenario lines of 30_encoding.md R90 and R91, the pseudo
operations of R92, the STATUS fields a host reads (10_state.md R41), and the result of the public operation
(44_host_port.md R159). The machine does not use this file; claims and tests do. -/

namespace Sys2Proof.Machine

/-! ### Host program lines (R90) and the CTRL word (R84) -/

/-- `<reg>`: CTRL, STATUS, READING or `[<offset>]`. -/
inductive Reg where
  | ctrl
  | status
  | reading
  | at (off : Byte)
  deriving DecidableEq, Repr

/-- `off(reg)` (20_memory.md R61). -/
def Reg.off : Reg → Byte
  | .ctrl => 0x00#8
  | .status => 0x04#8
  | .reading => 0x08#8
  | .at o => o

/-- `WR <reg>, <imm32>`. -/
def wr (r : Reg) (v : Word) : Event := .host (.write 4 r.off v)

/-- `RD <reg>`. -/
def rd (r : Reg) : Event := .host (.read 4 r.off)

/-- `v = (PIN << 16) | (MAX_RETRIES << 8) | START` (R84). -/
def ctrlOf (pin retries : Byte) (startBit : Bool) : Word :=
  0#8 ++ pin ++ retries ++ 0#7 ++ BitVec.ofBool startBit

/-! ### Environment script lines (R91) -/

/-- A line of an environment script, without its phase name: the answers to one engine step. -/
def answers (lv : Level) (t : Nat) (err : Bool) : Event := .engine { lv := lv, t := t, err := err }

/-- `d(k)`: 70 µs of High for a 1 and 27 µs for a 0 (R91). -/
def highTime (b : Bool) : Nat := if b then 70 else 27

/-- The two lines of the FRAME macro for capture bit `k`. -/
def bitLines (b : Bool) (start : Nat) : List Event :=
  [answers .high start false, answers .low (start + highTime b) false]

/-- The macro `FRAME b0 b1 b2 b3 b4 @ T` (R91): 80 lines, capture bit `k` rising at `T + 100k`. -/
def frameLines (f : Frame) (start : Nat) : List Event :=
  (List.finRange 40).flatMap (fun k => bitLines (f.bit k) (start + 100 * k.val))

/-! ### STATUS as a host reads it (10_state.md R41) -/

def statusBusy (w : Word) : Bool := w.getLsbD 0
def statusDone (w : Word) : Bool := w.getLsbD 1
def statusValid (w : Word) : Bool := w.getLsbD 2
def statusPhase (w : Word) : BitVec 4 := w.extractLsb' 4 4
def statusResult (w : Word) : BitVec 4 := w.extractLsb' 8 4
def statusLastFail (w : Word) : BitVec 4 := w.extractLsb' 12 4
def statusAttempt (w : Word) : BitVec 8 := w.extractLsb' 16 8
def statusBitCount (w : Word) : BitVec 6 := w.extractLsb' 24 6

/-! ### READ_SENSOR (R92) and its result (44_host_port.md R159) -/

/-- The accesses of `READ_SENSOR <pin>, <n>` less its POLL, which is the host's own loop. -/
def readSensor (pin n : Byte) : List Event :=
  [wr .ctrl (ctrlOf pin n true), rd .status, rd .reading]

/-- The source's `Result<(Humidity, Temperature), SensorError>`, the values in tenths (R159). -/
inductive SensorResult where
  | ok (hum10 : Nat) (temp10 : Int)
  | exhausted (lastFail : BitVec 4)
  | configuration
  deriving DecidableEq, Repr

/-- What a STATUS word and a READING word say of a transaction; none while it has no result. -/
def sensorResult (status reading : Word) : Option SensorResult :=
  if statusDone status then
    if statusResult status = OutCode.success.code then
      some (.ok (reading.extractLsb' 0 16).toNat (reading.extractLsb' 16 16).toInt)
    else if statusResult status = OutCode.exhaustedRetries.code then
      some (.exhausted (statusLastFail status))
    else if statusResult status = OutCode.configInvalid.code then some .configuration
    else none
  else none

end Sys2Proof.Machine
end

