-- ==== Sys2Proof/WellFormed.lean ====
section
/-! DEFINITION. Which operand values each operation admits (30_encoding.md R83, 44_host_port.md R146, R158). -/

namespace Sys2Proof

/-- The operands each row of the opcode table admits. WR_CTRL and START share a descriptor and are told apart by
data bit 0 (R83). -/
def Instr.wf : Instr → Bool
  | .idle | .attemptInit | .idleCheck | .startLow | .startHigh | .ackWaitLow | .ackWaitHigh | .bitWaitLow
  | .bitWaitHigh | .validate | .attemptEnd => true
  | .rdCtrl | .rdStatus | .wrStatus _ | .rdReading | .wrReading _ => true
  | .wrCtrl v => !v.getLsbD 0
  | .start v => v.getLsbD 0
  | .rdReserved off => reservedOff off
  | .wrReserved off _ => reservedOff off
  | .refusedAccess a => !a.served
  | .reset => true

end Sys2Proof
end

