-- ==== Sys2Proof/Safety.lean ====
section
/-! DEFINITION. What counts as a good state and a safe run: the invariants of 10_state.md R46 with what makes them
inductive, the successor sets of 30_encoding.md R81, the discipline of line operations, the quantities claims about
whole transactions count, and the launch premises of 70_reset_and_hazards.md R192. -/

namespace Sys2Proof

/-- The events the spec gives a meaning to in every good state: every one but a refused host access (R158). -/
def Event.legal : Event → Bool
  | .engine _ | .rst => true
  | .host a => a.served

end Sys2Proof

namespace Sys2Proof.Machine

/-! ### Good states -/

/-- The flags and results (10_state.md R22 to R24, R26, R46). -/
structure FlagsInv (e : Engine) : Prop where
  phase_legal : e.phase.toNat ≤ 10
  busy_iff : e.busy = true ↔ e.phase ≠ Phase.idle
  busy_not_done : e.busy = true → e.done = false
  valid_iff : e.valid = true ↔ e.result = .success
  done_iff : e.done = true ↔ e.result ≠ .none
  result_code : e.result.isResult = true
  last_fail_code : e.lastFail = .none ∨ e.lastFail.isFailure = true

/-- The counters (R27 to R29, R46). -/
structure CountersInv (p : Params) (e : Engine) : Prop where
  attempt_le : e.busy = true → e.attempt.toNat ≤ e.cfgMaxRetries.toNat
  attempt_lt : e.phase = Phase.attemptInit → e.attempt.toNat < e.cfgMaxRetries.toNat
  attempt_pos : e.busy = true → e.phase ≠ Phase.attemptInit → 1 ≤ e.attempt.toNat
  bit_count_le : e.bitCount.toNat ≤ 40
  bit_count_setup : 2 ≤ e.phase.toNat → e.phase.toNat ≤ 6 → e.bitCount = 0#6
  bit_count_capture : e.phase = Phase.bitWaitLow ∨ e.phase = Phase.bitWaitHigh → e.bitCount.toNat < 40
  bit_count_full : e.phase = Phase.validate → e.bitCount = 40#6
  idle_count_le : e.idleCount.toNat ≤ p.nIdleSamples
  idle_count_lt : e.phase = Phase.idleCheck → e.idleCount.toNat < p.nIdleSamples
  idle_count_full : 3 ≤ e.phase.toNat → e.phase.toNat ≤ 9 → e.idleCount.toNat = p.nIdleSamples

/-- The outcome of the attempt and the reading (R32, R36, 43_retry_controller.md R139). A reading other than 0 stands
only with VALID, or in the ATTEMPT_END that is about to set it. -/
structure OutcomeInv (e : Engine) : Prop where
  att_out_code : e.attOut.isAttempt = true
  att_out_running : 2 ≤ e.phase.toNat → e.phase.toNat ≤ 9 → e.attOut = .none
  att_out_end : e.phase = Phase.attemptEnd → e.attOut ≠ .none
  hum_range : e.readingHum.toNat ≤ 1000
  temp_range : e.readingTemp.toNat ≤ 800
  no_partial : e.valid = false → ¬ (e.phase = Phase.attemptEnd ∧ e.attOut = .success) →
    e.readingHum = 0#16 ∧ e.readingTemp = 0#16

/-- The line and the time mark (R35, R37; 40_line_interface.md R97, R98). -/
structure LineInv (p : Params) (e : Engine) : Prop where
  reads_input : e.phase = Phase.idleCheck ∨ (5 ≤ e.phase.toNat ∧ e.phase.toNat ≤ 8) → e.lineDir = .inPD
  drives_output : e.phase = Phase.startHigh → e.lineDir = .out
  t_mark_lt : e.tMark < 2 ^ p.tsBits

/-- The diag history holds failed attempts only, numbered from 1 (30_encoding.md R79, R94). -/
def DiagInv (ds : List Diag) : Prop :=
  ∀ d ∈ ds, d.outcome.isFailure = true ∧ 1 ≤ d.attempt.toNat

/-- The frame bits not yet captured in this attempt are still 1 (10_state.md R33, 41_protocol_driver.md R120). -/
def FrameInv (e : Engine) : Prop :=
  2 ≤ e.phase.toNat → e.phase.toNat ≤ 8 → ∀ k : Fin 40, e.bitCount.toNat ≤ k.val → e.frame.bit k = true

/-- The invariant of the machine (R46). -/
structure State.Inv (s : State) : Prop where
  flags : FlagsInv s.eng
  counters : CountersInv s.par s.eng
  outcome : OutcomeInv s.eng
  line : LineInv s.par s.eng
  diag : DiagInv s.diag
  frame : FrameInv s.eng

/-! ### Successors and line discipline -/

/-- The successor phases of R81, with the self-loops of 41_protocol_driver.md R121 and the aborts. IDLE is left by an
accepted START only; no engine step leads out of it (43_retry_controller.md R136). -/
def successors (p : BitVec 4) : List (BitVec 4) :=
  match p.toNat with
  | 0 => [Phase.attemptInit]
  | 1 => [Phase.idleCheck, Phase.attemptEnd]
  | 2 => [Phase.idleCheck, Phase.startLow, Phase.attemptEnd]
  | 3 => [Phase.startHigh, Phase.attemptEnd]
  | 4 => [Phase.ackWaitLow, Phase.attemptEnd]
  | 5 => [Phase.ackWaitLow, Phase.ackWaitHigh, Phase.attemptEnd]
  | 6 => [Phase.ackWaitHigh, Phase.bitWaitLow, Phase.attemptEnd]
  | 7 => [Phase.bitWaitLow, Phase.bitWaitHigh, Phase.attemptEnd]
  | 8 => [Phase.bitWaitLow, Phase.bitWaitHigh, Phase.validate, Phase.attemptEnd]
  | 9 => [Phase.attemptEnd]
  | 10 => [Phase.idle, Phase.attemptInit]
  | _ => []

/-- The pin a primitive carries, if it is a line operation. -/
def Prim.pin : Prim → Option Byte
  | .setDir p _ | .writeLevel p _ | .readLevel p => some p
  | .now | .sleepMs _ | .sleepUs _ => none

/-- The direction the line has after a primitive was issued. -/
def Prim.dirAfter (d : Dir) : Prim → Dir
  | .setDir _ d' => d'
  | .writeLevel _ _ | .readLevel _ | .now | .sleepMs _ | .sleepUs _ => d

/-- The level last driven after a primitive was issued. -/
def Prim.drvAfter (l : Level) : Prim → Level
  | .writeLevel _ l' => l'
  | .setDir _ _ | .readLevel _ | .now | .sleepMs _ | .sleepUs _ => l

/-- From direction `d`, every level is written with the line an output and read with it an input
(40_line_interface.md R97, R98). -/
def lineDiscipline (d : Dir) : List Prim → Bool
  | [] => true
  | p :: ps =>
    (match p with
     | .writeLevel _ _ => d == .out
     | .readLevel _ => d == .inPD
     | .setDir _ _ | .now | .sleepMs _ | .sleepUs _ => true) && lineDiscipline (p.dirAfter d) ps

/-! ### What claims about transactions count -/

/-- The attempts of the running transaction that have ended (43_retry_controller.md R140): all that were started when
the next one is due, one less while an attempt is in progress. -/
def Engine.endedAttempts (e : Engine) : Nat :=
  if e.phase = Phase.attemptInit then e.attempt.toNat else e.attempt.toNat - 1

/-- What a step of an attempt may depend on (43_retry_controller.md R142): all but LAST_FAIL and the line registers; the
time mark in the four wait phases only; and, when ATTEMPT_INIT is due, nothing of what it rewrites. -/
def Engine.attemptView (e : Engine) : Engine :=
  { e with
    lastFail := .none, lineDir := .inPD, lineDrv := .low
    tMark := if 5 ≤ e.phase.toNat ∧ e.phase.toNat ≤ 8 then e.tMark else 0
    frame := if e.phase = Phase.attemptInit then Frame.fresh else e.frame
    bitCount := if e.phase = Phase.attemptInit then 0#6 else e.bitCount
    idleCount := if e.phase = Phase.attemptInit then 0#4 else e.idleCount
    attOut := if e.phase = Phase.attemptInit then .none else e.attOut }

/-- Two engines that agree on everything but OVR and the pin (10_state.md R25, R31). -/
def Engine.sameButOvrPin (e e' : Engine) : Prop :=
  { e with ovr := false, cfgPin := 0#8 } = { e' with ovr := false, cfgPin := 0#8 }

/-! ### The launch premises -/

/-- What surrounds the engine while a transaction runs, engine step by engine step (log entry 15). It is no state of the
machine: the machine sees only the draws made of it.
* `level`: what a read of the line in step `n` would return, the engine not driving it (40_line_interface.md R98).
* `time`: the time base in step `n`, in µs (R101).
* `ready`: the pins for which the Line Interface accepts the three operations (R95, R100).
* `fails`: the line operations of step `n` fail although the interface is ready (R99).
* `sensor`: the sensor pulls the line in step `n` (R104).
* `other`: an agent other than the engine and the sensor drives the line in step `n` (R109). -/
structure Surroundings where
  level : Nat → Level
  time : Nat → Nat
  ready : Byte → Bool
  fails : Nat → Bool
  sensor : Nat → Bool
  other : Nat → Bool

/-- The draws of step `n` (R108). An interface that does not accept operations for the pin answers with an error (R100;
log entry 15). -/
def Surroundings.draw (x : Surroundings) (pin : Byte) (n : Nat) : Draw :=
  { lv := x.level n, t := x.time n, err := !x.ready pin || x.fails n }

/-- The `m` engine steps that begin with step `n`. -/
def Surroundings.events (x : Surroundings) (pin : Byte) (n m : Nat) : List Event :=
  (List.range' n m).map (fun k => .engine (x.draw pin k))

/-- The launch premises (70_reset_and_hazards.md R192, in its order): what must hold before the engine's rules give
meaningful results. No meaning assumes them; a claim that needs one takes it as a hypothesis. -/
structure LaunchPremises (p : Params) (pin : Byte) (x : Surroundings) : Prop where
  /-- Fairness of the time base (40_line_interface.md R107): a wait entered in step `n` that waits out the level `h` comes
  to a poll that sees the other level or finds the bound reached. -/
  time_base : ∀ w : Nat, p.waitTimeoutUs = some w → ∀ (n : Nat) (h : Level),
    ∃ k, n < k ∧ (x.level k ≠ h ∨ w ≤ elapsed p.tsBits (x.time k % 2 ^ p.tsBits) (x.time n % 2 ^ p.tsBits))
  /-- The Line Interface is ready to accept the three operations for the configured pin. -/
  line_ready : x.ready pin = true
  /-- The line reads High when no one drives it. -/
  idle_high : ∀ n : Nat, x.sensor n = false → x.other n = false → x.level n = .high
  /-- No other agent drives the line while a transaction runs (40_line_interface.md R109). -/
  sole_driver : ∀ n : Nat, x.other n = false

end Sys2Proof.Machine
end

