-- ==== Sys2Proof/Certificates/Slice0/Obligations.lean ====
section
/-! DEFINITION. The statements for the provers, from the numbered rules of spec/. `issued` and `readData` are the
model's record of what a rule says a step issues or returns (log entry 3). -/

open Sys2Proof Sys2Proof.Machine

/-! ### Encoding -/

/-- Decoding an encoded well-formed operation gives it back, every operand at every value (30_encoding.md R80, R83). -/
def Obligations.DecodeOfEncodeIsTheInstruction : Prop :=
  ∀ i : Instr, i.wf = true → decode (encode i) = .ok i

/-- The other direction: what the decoder accepts is well-formed and encodes to the same code, the data lines of a
read apart, which carry nothing (R82, R83). -/
def Obligations.EncodeOfDecodeIsTheCode : Prop :=
  ∀ (c : Code) (i : Instr), decode c = .ok i → i.wf = true ∧ encode i = c.normal

/-- Sample codes written out from R80, R82 and R83. -/
def Obligations.SampleCodesDecodeAsTheSpecWritesThem : Prop :=
  decode (.phase 0b0010#4) = .ok .idleCheck ∧
  decode (.phase 0b1000#4) = .ok .bitWaitHigh ∧
  decode (.phase 0b1001#4) = .ok .validate ∧
  decode (.phase 0b1010#4) = .ok .attemptEnd ∧
  decode (.port 4 0b000000100#9 0) = .ok .rdStatus ∧
  decode (.port 4 0b100000000#9 0x00000501#32) = .ok (.start 0x00000501#32) ∧
  decode (.port 4 0b100000000#9 0x00030300#32) = .ok (.wrCtrl 0x00030300#32) ∧
  decode (.port 4 0b100010000#9 0x00000001#32) = .ok (.wrReserved 0x10#8 0x00000001#32) ∧
  decode (.port 4 0b000000010#9 0) = .ok (.refusedAccess (.read 4 0x02#8)) ∧
  decode .rst = .ok .reset

/-- Phase codes 11..15 are reserved (10_state.md R47): they decode to no operation, an engine step due in one is stuck,
no step of the machine goes from a code of 0..10 to one, and reset does not give one. -/
def Obligations.ReservedPhasesAreStuckAndNeverWritten : Prop :=
  (∀ c : BitVec 4, 11 ≤ c.toNat → decode (.phase c) = .rejected (.reservedPhase c)) ∧
  (∀ (s : State) (d : Draw) (rest : List Event), s.par.ok = true → s.pending = .engine d :: rest →
    11 ≤ s.eng.phase.toNat → step s = .fault (.reservedPhase s.eng.phase)) ∧
  (∀ s s' : State, s.eng.phase.toNat ≤ 10 → step s = .next s' → s'.eng.phase.toNat ≤ 10) ∧
  State.reset.eng.phase.toNat ≤ 10

/-! ### Reset, configuration, one step -/

/-- The reset values of 10_state.md R45, and the three register words it derives from them. -/
def Obligations.ResetValuesAreThoseOfTheTable : Prop :=
  State.reset.eng =
    { phase := 0#4, busy := false, done := false, valid := false, ovr := false, result := .none, lastFail := .none
      attempt := 0#8, bitCount := 0#6, idleCount := 0#4, cfgMaxRetries := 5#8, cfgPin := 0#8, readingHum := 0#16
      readingTemp := 0#16, frame := { b0 := 0xFF#8, b1 := 0xFF#8, b2 := 0xFF#8, b3 := 0xFF#8, b4 := 0xFF#8 }
      tMark := 0, attOut := .none, lineDir := .inPD, lineDrv := .low } ∧
  State.reset.eng.ctrlWord = 0x00000500#32 ∧
  State.reset.eng.statusWord = 0x00000000#32 ∧
  State.reset.eng.readingWord = 0x00000000#32

/-- RESET (70_reset_and_hazards.md R189): as the next event it happens in any state; every element takes its reset
value, the line is released,
whatever the draw of `LineErr`; no diag event is emitted and those emitted stay. -/
def Obligations.ResetOperationRestoresEveryElement : Prop :=
  decode .rst = .ok .reset ∧
  (∀ (s : State) (rest : List Event), s.par.ok = true → s.pending = .rst :: rest →
    step s = exec .reset { s with pending := rest, issued := [], readData := none }) ∧
  ∀ s : State, ∃ t, exec .reset s = .next t ∧
    t.eng =
      { phase := 0#4, busy := false, done := false, valid := false, ovr := false, result := .none, lastFail := .none
        attempt := 0#8, bitCount := 0#6, idleCount := 0#4
        cfgMaxRetries := BitVec.ofNat 8 s.par.defaultMaxRetries, cfgPin := 0#8, readingHum := 0#16
        readingTemp := 0#16, frame := { b0 := 0xFF#8, b1 := 0xFF#8, b2 := 0xFF#8, b3 := 0xFF#8, b4 := 0xFF#8 }
        tMark := 0, attOut := .none, lineDir := .inPD, lineDrv := .low } ∧
    (∃ pin, t.issued = [.setDir pin .inPD]) ∧
    t.diag = s.diag ∧ t.par = s.par ∧ t.draw = s.draw ∧ t.pending = s.pending ∧ t.freeCount = s.freeCount ∧
    t.readData = s.readData ∧
    (s.par.defaultMaxRetries = 5 →
      t.eng.ctrlWord = 0x00000500#32 ∧ t.eng.statusWord = 0x00000000#32 ∧ t.eng.readingWord = 0x00000000#32)

/-- A configuration that breaks a constraint of 00_scope.md R10 is refused by every step; the others are accepted. -/
def Obligations.BadConfigurationsAreRefused : Prop :=
  (∀ s : State, s.par.ok = false → step s = .refused (.badConfiguration s.par)) ∧
  ∀ s : State, s.par.ok = false ↔
    (s.par.nIdleSamples < 1 ∨ 15 < s.par.nIdleSamples ∨
     s.par.bitThresholdUs < 1 ∨ 2 ^ s.par.tsBits - 1 < s.par.bitThresholdUs ∨
     (∃ w, s.par.waitTimeoutUs = some w ∧ ¬ (s.par.bitThresholdUs < w ∧ w < 2 ^ s.par.tsBits)) ∨
     s.par.defaultMaxRetries < 1 ∨ 255 < s.par.defaultMaxRetries ∨
     s.par.tsBits < 8)

/-- A step runs the decoded operation: an engine step the one its phase code names, a host access the one its
descriptor selects, `rst` RESET; around it the step only takes the event and its draws and clears the record of what
the last event issued and returned (the model's own fields, log entries 1 to 3). When no event is
recorded, the free event of the counter comes next. -/
def Obligations.StepRunsTheDecodedInstruction : Prop :=
  (∀ s : State, s.pending = [] →
    step s = step { s with pending := [Config.freeEvent s.freeCount], freeCount := s.freeCount + 1 }) ∧
  ∀ (s : State) (rest : List Event), s.par.ok = true →
    (∀ (d : Draw) (i : Instr), s.pending = .engine d :: rest → decode (.phase s.eng.phase) = .ok i →
      step s = exec i { s with draw := d, pending := rest, issued := [], readData := none }) ∧
    (∀ (a : Access) (i : Instr), s.pending = .host a :: rest → decode (codeOfAccess a) = .ok i →
      step s = exec i { s with pending := rest, issued := [], readData := none }) ∧
    (s.pending = .rst :: rest →
      step s = exec .reset { s with pending := rest, issued := [], readData := none })

/-- The instruction of a table word, placed where the step fetches, is what the very next step runs. How a table word is
laid out and placed is the model's choice (log entry 8). -/
def Obligations.PlacedTableWordIsTheNextInstruction : Prop :=
  ∀ (s : State) (nbits w : Nat) (i : Instr), s.par.ok = true → decodeTableWord nbits w = some i →
    step (s.withFetchWord nbits w) =
      exec i { s with eng.phase := (s.withFetchWord nbits w).eng.phase, issued := [], readData := none }

/-- Refused accesses (44_host_port.md R158): another width than 4 bytes, or an offset that is no multiple of 4, has no
transition and sets the refusal mark. -/
def Obligations.OtherHostAccessesAreRefused : Prop :=
  ∀ a : Access, (a.width ≠ 4 ∨ a.off.toNat % 4 ≠ 0) →
    (∀ s : State, exec (.refusedAccess a) s = .refused (.hostAccess a)) ∧
    decode (codeOfAccess a) = .ok (.refusedAccess a) ∧
    ∀ (s : State) (rest : List Event), s.par.ok = true → s.pending = .host a :: rest →
      step s = .refused (.hostAccess a)

/-- Every aligned 4-byte access is served in every state (44_host_port.md, head; 60_exceptions.md R179; 20_memory.md
R63): nothing raises an access fault. -/
def Obligations.AlignedWordAccessesAlwaysComplete : Prop :=
  ∀ (s : State) (a : Access) (rest : List Event), s.par.ok = true → s.pending = .host a :: rest →
    a.width = 4 → a.off.toNat % 4 = 0 → ∃ t, step s = .next t

/-! ### Invariants of the whole machine -/

/-- The invariant of 10_state.md R46 holds at reset. -/
def Obligations.ResetStateIsGood : Prop := State.reset.Inv

/-- Every step from every good state gives a good state (10_state.md R46; R22 to R29, R32, R35, R36;
30_encoding.md R79; 43_retry_controller.md R139). -/
def Obligations.EveryStepKeepsTheStateGood : Prop :=
  ∀ s s' : State, s.Inv → step s = .next s' → s'.Inv

/-- From a good state, every event but a refused host access gives a next state: nothing is stuck (R47, R187). For an
engine event in IDLE, where no engine step is enabled (43_retry_controller.md R136), the next state is the model's
reading, log entry 10. -/
def Obligations.GoodStatesAreNeverStuck : Prop :=
  ∀ (s : State) (e : Event) (rest : List Event), s.Inv → s.par.ok = true → s.pending = e :: rest →
    e.legal = true → ∃ s', step s = .next s'

/-- The diag history (43_retry_controller.md R138): exactly one event for each failed attempt (an outcome 2..6), at its
ATTEMPT_END, none at the end of a successful one and none at any other time; LAST_FAIL reflects it. -/
def Obligations.OneDiagEventPerFailedAttempt : Prop :=
  ∀ (i : Instr) (s t : State), exec i s = .next t →
    (i = .attemptEnd → s.eng.attOut.isFailure = true →
      t.diag = s.diag ++ [{ attempt := s.eng.attempt, outcome := s.eng.attOut }] ∧
      t.diag.getLast?.map Diag.word = some (s.eng.attempt ++ s.eng.attOut.code) ∧ t.eng.lastFail = s.eng.attOut) ∧
    (i ≠ .attemptEnd ∨ s.eng.attOut = .success → t.diag = s.diag)

/-- The invariants of 10_state.md R46, as it lists them, in every state reachable from reset: under any configuration,
after any number of steps on any recorded events and beyond them. -/
def Obligations.ReachableStatesKeepTheListedInvariants : Prop :=
  ∀ (p : Params) (evs : List Event) (n : Nat) (s : State),
    Sys2Proof.core.run n { State.reset with par := p, eng := Engine.reset p, pending := evs } = .next s →
    (s.eng.busy = true ↔ s.eng.phase ≠ 0#4) ∧
    (s.eng.busy = true → s.eng.done = false ∧ s.eng.valid = false) ∧
    (s.eng.valid = true → s.eng.done = true ∧ s.eng.result = .success) ∧
    (s.eng.busy = true → s.eng.attempt.toNat ≤ s.eng.cfgMaxRetries.toNat) ∧
    (s.eng.busy = true →
      1 ≤ s.eng.attempt.toNat ∨ (s.eng.phase = Phase.attemptInit ∧ s.eng.attempt.toNat = 0)) ∧
    s.eng.bitCount.toNat ≤ 40 ∧
    (s.eng.phase = Phase.bitWaitLow ∨ s.eng.phase = Phase.bitWaitHigh → s.eng.bitCount.toNat < 40) ∧
    s.eng.idleCount.toNat ≤ s.par.nIdleSamples ∧
    s.eng.phase.toNat ≤ 10

/-- No step changes the parameters, and no step takes back a diag event (10_state.md R38, R44). -/
def Obligations.ParametersStayAndDiagOnlyGrows : Prop :=
  ∀ s s' : State, step s = .next s' → s'.par = s.par ∧ s.diag <+: s'.diag

/-! ### The Protocol Driver -/

/-- ATTEMPT_INIT (41_protocol_driver.md R111). -/
def Obligations.AttemptInitBeginsAFreshAttempt : Prop :=
  decode (.phase 0b0001#4) = .ok .attemptInit ∧
  ∀ (s : State) (fresh : Engine), s.eng.attempt.toNat < 255 →
    fresh = { s.eng with
      attempt := s.eng.attempt + 1#8
      frame := { b0 := 0xFF#8, b1 := 0xFF#8, b2 := 0xFF#8, b3 := 0xFF#8, b4 := 0xFF#8 }
      bitCount := 0#6, idleCount := 0#4 } →
    (s.draw.err = false →
      exec .attemptInit s = .next { s with
        eng := { fresh with attOut := .none, lineDir := .inPD, phase := 2#4 }
        issued := [.setDir s.eng.cfgPin .inPD] }) ∧
    (s.draw.err = true →
      exec .attemptInit s = .next { s with
        eng := { fresh with attOut := .protocolFault, phase := 10#4 }
        issued := [.setDir s.eng.cfgPin .inPD] })

/-- IDLE_CHECK (R112): one sample. -/
def Obligations.IdleCheckTakesOneSample : Prop :=
  decode (.phase 0b0010#4) = .ok .idleCheck ∧
  ∀ s : State, s.eng.idleCount.toNat < 15 →
    (s.draw.err = true →
      exec .idleCheck s = .next { s with
        eng := { s.eng with attOut := .protocolFault, phase := 10#4 }, issued := [.readLevel s.eng.cfgPin] }) ∧
    (s.draw.err = false → s.draw.lv = .low →
      exec .idleCheck s = .next { s with
        eng := { s.eng with attOut := .busyLine, phase := 10#4 }, issued := [.readLevel s.eng.cfgPin] }) ∧
    (s.draw.err = false → s.draw.lv = .high → s.eng.idleCount.toNat + 1 = s.par.nIdleSamples →
      exec .idleCheck s = .next { s with
        eng := { s.eng with idleCount := s.eng.idleCount + 1#4, phase := 3#4 }
        issued := [.readLevel s.eng.cfgPin, .sleepMs s.par.tIdleSampleMs] }) ∧
    (s.draw.err = false → s.draw.lv = .high → s.eng.idleCount.toNat + 1 ≠ s.par.nIdleSamples →
      exec .idleCheck s = .next { s with
        eng := { s.eng with idleCount := s.eng.idleCount + 1#4 }
        issued := [.readLevel s.eng.cfgPin, .sleepMs s.par.tIdleSampleMs] })

/-- START_LOW (R113). -/
def Obligations.StartLowDrivesTheLineLow : Prop :=
  decode (.phase 0b0011#4) = .ok .startLow ∧
  ∀ s : State,
    (s.draw.err = true →
      exec .startLow s = .next { s with
        eng := { s.eng with attOut := .protocolFault, phase := 10#4 }
        issued := [.setDir s.eng.cfgPin .out, .writeLevel s.eng.cfgPin .low] }) ∧
    (s.draw.err = false →
      exec .startLow s = .next { s with
        eng := { s.eng with lineDir := .out, lineDrv := .low, phase := 4#4 }
        issued := [.setDir s.eng.cfgPin .out, .writeLevel s.eng.cfgPin .low, .sleepMs s.par.tStartLowMs] })

/-- START_HIGH (R114). -/
def Obligations.StartHighReleasesTheLine : Prop :=
  decode (.phase 0b0100#4) = .ok .startHigh ∧
  ∀ s : State,
    (s.draw.err = true →
      exec .startHigh s = .next { s with
        eng := { s.eng with attOut := .protocolFault, phase := 10#4 }
        issued := [.writeLevel s.eng.cfgPin .high, .sleepUs s.par.tStartHighUs, .setDir s.eng.cfgPin .inPD, .now] }) ∧
    (s.draw.err = false →
      exec .startHigh s = .next { s with
        eng := { s.eng with
          lineDrv := .high, lineDir := .inPD, tMark := s.draw.t % 2 ^ s.par.tsBits, phase := 5#4 }
        issued := [.writeLevel s.eng.cfgPin .high, .sleepUs s.par.tStartHighUs, .setDir s.eng.cfgPin .inPD, .now] })

/-- `elapsed(t, m) = (t - m) mod 2^TS_BITS` (30_encoding.md R86): below `2^TS_BITS`, and added to `m` it gives `t` again
modulo `2^TS_BITS`; so a true duration below `2^TS_BITS` is measured exactly across one wrap, and a longer one cannot be told from one
`2^TS_BITS` shorter. -/
def Obligations.ElapsedTimeAbsorbsOneWrap : Prop :=
  (∀ n t m : Nat, elapsed n t m < 2 ^ n ∧ (m + elapsed n t m) % 2 ^ n = t % 2 ^ n) ∧
  (∀ n m d : Nat, d < 2 ^ n → elapsed n ((m + d) % 2 ^ n) m = d) ∧
  (∀ n m d : Nat, elapsed n ((m + (d + 2 ^ n)) % 2 ^ n) m = elapsed n ((m + d) % 2 ^ n) m)

/-- ACK_WAIT_LOW, ACK_WAIT_HIGH and BIT_WAIT_LOW (R110, R115 to R117): line error, then the awaited level, then the
bound, else poll again. `now` is `Now()` and `d` is `elapsed(Now(), t_mark)`. -/
def Obligations.SimpleWaitsPollOnce : Prop :=
  ∀ (i : Instr) (code : BitVec 4) (h : Level) (after : BitVec 4),
    (i, code, h, after) ∈ [(Instr.ackWaitLow, 0b0101#4, Level.high, 6#4), (Instr.ackWaitHigh, 0b0110#4, Level.low, 7#4),
      (Instr.bitWaitLow, 0b0111#4, Level.low, 8#4)] →
    decode (.phase code) = .ok i ∧
    ∀ (s : State) (now d : Nat), now = s.draw.t % 2 ^ s.par.tsBits → d = elapsed s.par.tsBits now s.eng.tMark →
      (s.draw.err = true →
        exec i s = .next { s with
          eng := { s.eng with attOut := .protocolFault, phase := 10#4 }
          issued := [.readLevel s.eng.cfgPin, .now] }) ∧
      (s.draw.err = false → s.draw.lv ≠ h →
        exec i s = .next { s with
          eng := { s.eng with tMark := now, phase := after }
          issued := [.readLevel s.eng.cfgPin, .now] }) ∧
      (s.draw.err = false → s.draw.lv = h → (∃ w, s.par.waitTimeoutUs = some w ∧ w ≤ d) →
        exec i s = .next { s with
          eng := { s.eng with attOut := .timeout, phase := 10#4 }
          issued := [.readLevel s.eng.cfgPin, .now] }) ∧
      (s.draw.err = false → s.draw.lv = h → (∀ w, s.par.waitTimeoutUs = some w → d < w) →
        exec i s = .next { s with issued := [.readLevel s.eng.cfgPin, .now] })

/-- BIT_WAIT_HIGH (R110, R118): as the other waits, and the edge decodes capture bit `k = bit_count`: a duration below
the threshold clears bit `7 - (k mod 8)` of frame byte `k div 8`, a longer one leaves the frame. -/
def Obligations.BitWaitHighCapturesOneBit : Prop :=
  decode (.phase 0b1000#4) = .ok .bitWaitHigh ∧
  ∀ (s : State) (now d : Nat), now = s.draw.t % 2 ^ s.par.tsBits → d = elapsed s.par.tsBits now s.eng.tMark →
    (s.draw.err = true →
      exec .bitWaitHigh s = .next { s with
        eng := { s.eng with attOut := .protocolFault, phase := 10#4 }
        issued := [.readLevel s.eng.cfgPin, .now] }) ∧
    (s.draw.err = false → s.draw.lv = .low → ∀ k : Nat, k = s.eng.bitCount.toNat → k < 40 →
      ∃ f : Frame,
        exec .bitWaitHigh s = .next { s with
          eng := { s.eng with
            frame := f, bitCount := BitVec.ofNat 6 (k + 1), tMark := now
            phase := if k + 1 = 40 then 9#4 else 7#4 }
          issued := [.readLevel s.eng.cfgPin, .now] } ∧
        (s.par.bitThresholdUs ≤ d → f = s.eng.frame) ∧
        (d < s.par.bitThresholdUs → ∀ j : Fin 5,
          f.byte j = if j.val = k / 8 then s.eng.frame.byte j &&& ~~~(1#8 <<< (7 - k % 8)) else s.eng.frame.byte j)) ∧
    (s.draw.err = false → s.draw.lv = .high → (∃ w, s.par.waitTimeoutUs = some w ∧ w ≤ d) →
      exec .bitWaitHigh s = .next { s with
        eng := { s.eng with attOut := .timeout, phase := 10#4 }
        issued := [.readLevel s.eng.cfgPin, .now] }) ∧
    (s.draw.err = false → s.draw.lv = .high → (∀ w, s.par.waitTimeoutUs = some w → d < w) →
      exec .bitWaitHigh s = .next { s with issued := [.readLevel s.eng.cfgPin, .now] })

/-- The model's choice for states no run reaches (log entry 6): with `bit_count` at 40 or more, BIT_WAIT_HIGH stops by
name when it sees the edge. -/
def Obligations.NoFrameBitBeyondForty : Prop :=
  ∀ s : State, s.draw.err = false → s.draw.lv = .low → 40 ≤ s.eng.bitCount.toNat →
    exec .bitWaitHigh s = .fault (.noFrameBit s.eng.bitCount)

/-- The effect of BIT_WAIT_HIGH's edge on the 40 frame bits (R74, R119; 10_state.md R33): bit `k` keeps its 1 exactly
when the measured High phase is at or above the threshold; every other bit stays; no bit goes from 0 to 1. -/
def Obligations.PulseWidthDecidesOneFrameBit : Prop :=
  ∀ (s t : State) (k : Fin 40), s.draw.err = false → s.draw.lv = .low → s.eng.bitCount.toNat = k.val →
    exec .bitWaitHigh s = .next t →
    (t.eng.frame.bit k = true ↔
      s.eng.frame.bit k = true ∧
      s.par.bitThresholdUs ≤ elapsed s.par.tsBits (s.draw.t % 2 ^ s.par.tsBits) s.eng.tMark) ∧
    ∀ j : Fin 40, j ≠ k → t.eng.frame.bit j = s.eng.frame.bit j

/-- A line error comes first in every phase of the driver (60_exceptions.md R172), and the abort is precise (R173): only
the outcome and the phase change, and in ATTEMPT_INIT also what it writes in any case (41_protocol_driver.md R111):
the count, the frame and the two counters, `line_dir` not. -/
def Obligations.LineErrorsAbortPrecisely : Prop :=
  ∀ i ∈ [Instr.attemptInit, .idleCheck, .startLow, .startHigh, .ackWaitLow, .ackWaitHigh, .bitWaitLow, .bitWaitHigh],
    ∀ s : State, s.draw.err = true →
      ∃ t, exec i s = .next t ∧ t.eng.attOut = .protocolFault ∧ t.eng.phase = Phase.attemptEnd ∧
        (i ≠ .attemptInit → t.eng = { s.eng with attOut := .protocolFault, phase := Phase.attemptEnd }) ∧
        (i = .attemptInit → s.eng.attempt.toNat < 255 →
          t.eng = { s.eng with
            attempt := s.eng.attempt + 1#8
            frame := { b0 := 0xFF#8, b1 := 0xFF#8, b2 := 0xFF#8, b3 := 0xFF#8, b4 := 0xFF#8 }
            bitCount := 0#6, idleCount := 0#4, attOut := .protocolFault, phase := Phase.attemptEnd }) ∧
        t.diag = s.diag ∧ t.par = s.par ∧ t.draw = s.draw ∧ t.pending = s.pending ∧ t.freeCount = s.freeCount ∧
        t.readData = s.readData

/-- The successor sets of 30_encoding.md R81, with the self-loops of 41_protocol_driver.md R121. In a phase other than
IDLE an engine step goes to a phase of the set; from a good state a host access leaves the phase, but for an accepted
START, which goes from IDLE to the one member of IDLE's set; and each phase of each set is reached so. (An engine event
in IDLE is log entry 10 and no part of this statement.) -/
def Obligations.PhasesFollowTheSuccessorSets : Prop :=
  (∀ (i : Instr) (s t : State), s.eng.phase ≠ Phase.idle → decode (.phase s.eng.phase) = .ok i → exec i s = .next t →
    t.eng.phase ∈ successors s.eng.phase) ∧
  (∀ (s t : State) (a : Access) (rest : List Event), s.Inv → s.pending = .host a :: rest → step s = .next t →
    t.eng.phase = s.eng.phase ∨
    (s.eng.phase = Phase.idle ∧ t.eng.phase ∈ successors Phase.idle ∧
      ∃ v : Word, a = .write 4 0x00#8 v ∧ v.getLsbD 0 = true ∧ v.extractLsb' 8 8 ≠ 0#8)) ∧
  (∀ p q : BitVec 4, p ≠ Phase.idle → q ∈ successors p →
    ∃ (i : Instr) (s t : State), s.eng.phase = p ∧ decode (.phase p) = .ok i ∧ exec i s = .next t ∧ t.eng.phase = q) ∧
  (∀ (q : BitVec 4) (s : State) (v : Word) (rest : List Event), q ∈ successors Phase.idle → s.Inv → s.par.ok = true →
    s.eng.phase = Phase.idle → v.getLsbD 0 = true → v.extractLsb' 8 8 ≠ 0#8 →
    s.pending = .host (.write 4 0x00#8 v) :: rest → ∃ t, step s = .next t ∧ t.eng.phase = q)

/-- Exactly `N_IDLE_SAMPLES` all-High samples precede START_LOW (41_protocol_driver.md R112): after `m` of them the
engine is still sampling while `m` is below the count, and is in START_LOW when `m` is the count. -/
def Obligations.IdleCheckTakesExactlyTheSampleCount : Prop :=
  ∀ (s : State) (ts : List Nat) (rest : List Event), s.par.ok = true →
    s.eng.phase = Phase.idleCheck → s.eng.idleCount = 0#4 →
    s.pending = ts.map (fun t => answers .high t false) ++ rest → ts.length ≤ s.par.nIdleSamples →
    ∃ t, Sys2Proof.core.run ts.length s = .next t ∧ t.eng.idleCount.toNat = ts.length ∧ t.pending = rest ∧
      t.eng.phase = (if ts.length = s.par.nIdleSamples then Phase.startLow else Phase.idleCheck)

/-- The unbounded baseline (41_protocol_driver.md R122): with `WAIT_TIMEOUT_US = NONE`, any number of polls that see no
edge and no error leave the engine polling in the same wait phase: no TIMEOUT, a hang and not a stop. The default bound is finite. -/
def Obligations.BaselineWaitsPollForever : Prop :=
  (∃ w, ({} : Params).waitTimeoutUs = some w) ∧
  ∀ (s : State) (h : Level) (ts : List Nat) (rest : List Event), s.par.ok = true → s.par.waitTimeoutUs = none →
    (s.eng.phase, h) ∈ [(Phase.ackWaitLow, Level.high), (Phase.ackWaitHigh, Level.low), (Phase.bitWaitLow, Level.low),
      (Phase.bitWaitHigh, Level.high)] →
    s.pending = ts.map (fun t => answers h t false) ++ rest →
    ∃ t, Sys2Proof.core.run ts.length s = .next t ∧ t.eng = s.eng ∧ t.diag = s.diag ∧ t.pending = rest

/-- Every bounded wait ends (40_line_interface.md R107): if some poll of the recorded ones fails, sees the awaited level
or finds the bound reached since the phase was entered, the engine has left the phase by then. -/
def Obligations.BoundedWaitsEndUnderFairness : Prop :=
  ∀ (s : State) (h : Level) (w : Nat) (ds : List Draw) (rest : List Event), s.Inv → s.par.ok = true →
    s.par.waitTimeoutUs = some w →
    (s.eng.phase, h) ∈ [(Phase.ackWaitLow, Level.high), (Phase.ackWaitHigh, Level.low), (Phase.bitWaitLow, Level.low),
      (Phase.bitWaitHigh, Level.high)] →
    s.pending = ds.map Event.engine ++ rest →
    (∃ d ∈ ds, d.err = true ∨ d.lv ≠ h ∨ w ≤ elapsed s.par.tsBits (d.t % 2 ^ s.par.tsBits) s.eng.tMark) →
    ∃ n t, n ≤ ds.length ∧ Sys2Proof.core.run n s = .next t ∧ t.eng.phase ≠ s.eng.phase

/-- Frame contents after capture (R120): forty rising and falling edges, at any times, from a fresh frame give the
frame whose capture bit `k` is 1 exactly when the High phase measured for it is at or above the threshold. -/
def Obligations.CapturedFrameHoldsThePulseWidths : Prop :=
  ∀ (s : State) (rise fall : Fin 40 → Nat) (rest : List Event), s.par.ok = true →
    s.eng.phase = Phase.bitWaitLow → s.eng.bitCount = 0#6 → s.eng.frame = Frame.fresh →
    s.pending =
      (List.finRange 40).flatMap (fun k => [answers .high (rise k) false, answers .low (fall k) false]) ++ rest →
    ∃ t, Sys2Proof.core.run 80 s = .next t ∧ t.eng.phase = Phase.validate ∧ t.eng.bitCount = 40#6 ∧
      t.pending = rest ∧
      ∀ k : Fin 40, t.eng.frame.bit k = true ↔
        s.par.bitThresholdUs ≤
          elapsed s.par.tsBits (fall k % 2 ^ s.par.tsBits) (rise k % 2 ^ s.par.tsBits)

/-- Every 40-bit pattern can be captured, and each gets one verdict (30_encoding.md R76): the FRAME macro of R91 for any
frame at any time puts that frame into the engine, and the step after it is VALIDATE's verdict on it. -/
def Obligations.EveryFrameCanBeCaptured : Prop :=
  ∀ (s : State) (f : Frame) (start : Nat) (d : Draw) (rest : List Event), s.par = {} →
    s.eng.phase = Phase.bitWaitLow → s.eng.bitCount = 0#6 → s.eng.frame = Frame.fresh →
    s.pending = frameLines f start ++ .engine d :: rest →
    (∃ t, Sys2Proof.core.run 80 s = .next t ∧ t.eng.phase = Phase.validate ∧ t.eng.frame = f) ∧
    (∃ t, Sys2Proof.core.run 81 s = .next t ∧ t.eng.phase = Phase.attemptEnd ∧ t.eng.frame = f ∧
      t.eng.attOut = f.verdict ∧ t.pending = rest)

/-! ### The Frame Validator -/

/-- VALIDATE (42_frame_validator.md R128): the checksum, then the range, then the reading. -/
def Obligations.ValidateGivesTheVerdict : Prop :=
  decode (.phase 0b1001#4) = .ok .validate ∧
  ∀ (s : State) (b0 b1 b2 b3 b4 : Nat),
    b0 = s.eng.frame.b0.toNat → b1 = s.eng.frame.b1.toNat → b2 = s.eng.frame.b2.toNat →
    b3 = s.eng.frame.b3.toNat → b4 = s.eng.frame.b4.toNat →
    ((b0 + b1 + b2 + b3) % 256 ≠ b4 →
      exec .validate s = .next { s with eng := { s.eng with attOut := .checksumMismatch, phase := 10#4 } }) ∧
    ((b0 + b1 + b2 + b3) % 256 = b4 → ¬ (10 * b0 + b1 ≤ 1000 ∧ 10 * b2 + b3 ≤ 800) →
      exec .validate s = .next { s with eng := { s.eng with attOut := .rangeInvalid, phase := 10#4 } }) ∧
    ((b0 + b1 + b2 + b3) % 256 = b4 → 10 * b0 + b1 ≤ 1000 ∧ 10 * b2 + b3 ≤ 800 →
      exec .validate s = .next { s with
        eng := { s.eng with
          attOut := .success, phase := 10#4
          readingHum := BitVec.ofNat 16 (10 * b0 + b1), readingTemp := BitVec.ofNat 16 (10 * b2 + b3) } })

/-- The checksum round trip (R135): a frame whose fifth byte is the sum of the other four modulo 256 never yields
CHECKSUM_MISMATCH; it is a SUCCESS with the exact tenths when both values are in range, and RANGE_INVALID otherwise. -/
def Obligations.ChecksumRoundTrips : Prop :=
  ∀ (s : State) (b0 b1 b2 b3 : Byte), s.eng.frame =
      { b0 := b0, b1 := b1, b2 := b2, b3 := b3
        b4 := BitVec.ofNat 8 ((b0.toNat + b1.toNat + b2.toNat + b3.toNat) % 256) } →
    ∃ t, exec .validate s = .next t ∧ t.eng.attOut ≠ .checksumMismatch ∧
      (10 * b0.toNat + b1.toNat ≤ 1000 ∧ 10 * b2.toNat + b3.toNat ≤ 800 →
        t.eng.attOut = .success ∧
        t.eng.readingHum.toNat = 10 * b0.toNat + b1.toNat ∧ t.eng.readingTemp.toInt = 10 * b2.toNat + b3.toNat) ∧
      (¬ (10 * b0.toNat + b1.toNat ≤ 1000 ∧ 10 * b2.toNat + b3.toNat ≤ 800) → t.eng.attOut = .rangeInvalid)

/-- The range check is the source's closed intervals on the exact values `byte0 + byte1/10` and `byte2 + byte3/10`
(42_frame_validator.md R124, R127, R133 for exact arithmetic): tenths change no verdict. -/
def Obligations.TenthsGiveTheRationalVerdict : Prop :=
  ∀ (s t : State) (hum temp : ℚ),
    hum = (s.eng.frame.b0.toNat : ℚ) + (s.eng.frame.b1.toNat : ℚ) / 10 →
    temp = (s.eng.frame.b2.toNat : ℚ) + (s.eng.frame.b3.toNat : ℚ) / 10 →
    s.eng.frame.checksum = s.eng.frame.b4.toNat → exec .validate s = .next t →
    (t.eng.attOut = .success ↔ 0 ≤ hum ∧ hum ≤ 100 ∧ -40 ≤ temp ∧ temp ≤ 80) ∧
    (t.eng.attOut = .success →
      (t.eng.readingHum.toNat : ℚ) / 10 = hum ∧ (t.eng.readingTemp.toInt : ℚ) / 10 = temp)

/-! ### The Retry Controller -/

/-- IDLE (43_retry_controller.md R136): quiescent and not stuck. The meaning changes nothing, and an engine step offered
in IDLE leaves every engine element and the diag history, and issues nothing: the model's reading, log entry 10. -/
def Obligations.IdleIsQuiescent : Prop :=
  decode (.phase 0b0000#4) = .ok .idle ∧
  (∀ s : State, exec .idle s = .next s) ∧
  ∀ (s : State) (d : Draw) (rest : List Event), s.par.ok = true → s.eng.phase = Phase.idle →
    s.pending = .engine d :: rest →
    ∃ t, step s = .next t ∧ t.eng = s.eng ∧ t.diag = s.diag ∧ t.issued = [] ∧ t.pending = rest

/-- ATTEMPT_END (R137), for the attempt outcomes 1..6. An error on the release changes nothing but `line_dir`'s
record. -/
def Obligations.AttemptEndConsumesTheOutcome : Prop :=
  decode (.phase 0b1010#4) = .ok .attemptEnd ∧
  ∀ (s : State) (dir : Dir), dir = (if s.draw.err then s.eng.lineDir else Dir.inPD) →
    (s.eng.attOut = .success →
      exec .attemptEnd s = .next { s with
        eng := { s.eng with
          lineDir := dir, result := .success, valid := true, done := true, busy := false, phase := 0#4 }
        issued := [.setDir s.eng.cfgPin .inPD] }) ∧
    (∀ c : OutCode, s.eng.attOut = c → c.isFailure = true → s.eng.cfgMaxRetries.toNat ≤ s.eng.attempt.toNat →
      exec .attemptEnd s = .next { s with
        eng := { s.eng with
          lineDir := dir, lastFail := c, result := .exhaustedRetries, valid := false, done := true, busy := false
          phase := 0#4 }
        diag := s.diag ++ [{ attempt := s.eng.attempt, outcome := c }]
        issued := [.setDir s.eng.cfgPin .inPD] }) ∧
    (∀ c : OutCode, s.eng.attOut = c → c.isFailure = true → s.eng.attempt.toNat < s.eng.cfgMaxRetries.toNat →
      exec .attemptEnd s = .next { s with
        eng := { s.eng with lineDir := dir, lastFail := c, phase := 1#4 }
        diag := s.diag ++ [{ attempt := s.eng.attempt, outcome := c }]
        issued := [.setDir s.eng.cfgPin .inPD] })

/-- The attempt count (R140): with `base` events emitted before the transaction, each ended attempt has its event while
the transaction runs; it ends with SUCCESS, all earlier attempts having failed, or with EXHAUSTED_RETRIES after exactly
`cfg_max_retries` failed attempts; no attempt beyond the budget is started. -/
def Obligations.TransactionsCountTheirAttempts : Prop :=
  ∀ (s s' : State) (base : Nat), s.Inv → s.eng.busy = true → s.diag.length = base + s.eng.endedAttempts →
    step s = .next s' →
    s'.eng.attempt.toNat ≤ s'.eng.cfgMaxRetries.toNat ∧
    (s'.eng.busy = true →
      s'.eng.cfgMaxRetries = s.eng.cfgMaxRetries ∧ s'.diag.length = base + s'.eng.endedAttempts) ∧
    (s'.eng.done = true → s'.eng.cfgMaxRetries = s.eng.cfgMaxRetries ∧ 1 ≤ s'.eng.attempt.toNat ∧
      ((s'.eng.result = .success ∧ s'.diag.length + 1 = base + s'.eng.attempt.toNat) ∨
       (s'.eng.result = .exhaustedRetries ∧ s'.eng.attempt = s'.eng.cfgMaxRetries ∧
        s'.diag.length = base + s'.eng.cfgMaxRetries.toNat)))

/-- Attempts are independent (R142). Two engines that agree on the attempt count, the configuration, the flags, the
results and the reading agree, after ATTEMPT_INIT on the same draw, on everything but LAST_FAIL, the time mark, the
driven level and, when the release failed, the direction. And no step of any phase reads what is left over: two engines
with the same `attemptView` (which ignores LAST_FAIL, the line registers, the time mark outside the waits, and before
ATTEMPT_INIT all it rewrites) take, on the same draws, steps to engines with the same `attemptView` again, issue the
same primitives and emit the same diag events. -/
def Obligations.AttemptsAreIndependent : Prop :=
  (∀ s s' t t' : State, s.draw.err = s'.draw.err →
    { s.eng with frame := Frame.fresh, bitCount := 0#6, idleCount := 0#4, attOut := .none, tMark := 0,
                 lastFail := .none, lineDir := .inPD, lineDrv := .low, phase := 0#4 } =
    { s'.eng with frame := Frame.fresh, bitCount := 0#6, idleCount := 0#4, attOut := .none, tMark := 0,
                  lastFail := .none, lineDir := .inPD, lineDrv := .low, phase := 0#4 } →
    exec .attemptInit s = .next t → exec .attemptInit s' = .next t' →
    { t.eng with tMark := 0, lastFail := .none, lineDrv := .low,
                 lineDir := if s.draw.err then .inPD else t.eng.lineDir } =
    { t'.eng with tMark := 0, lastFail := .none, lineDrv := .low,
                  lineDir := if s.draw.err then .inPD else t'.eng.lineDir }) ∧
  ∀ (s s' t : State) (d : Draw) (rest rest' : List Event), s.pending = .engine d :: rest →
    s'.pending = .engine d :: rest' → s.par = s'.par → s.eng.attemptView = s'.eng.attemptView → step s = .next t →
    ∃ t', step s' = .next t' ∧ t.eng.attemptView = t'.eng.attemptView ∧ t.issued = t'.issued ∧
      ∃ ds : List Diag, t.diag = s.diag ++ ds ∧ t'.diag = s'.diag ++ ds

/-! ### What the phase operations leave alone -/

/-- The frame of the phase operations (10_state.md R20, R24, R25, R30 to R33): they never write the configuration or
OVR and return nothing to the host; phases 1 to 9 leave the transaction's flags, its result, LAST_FAIL and the diag
history; phases 1 to 8 leave the reading; only ATTEMPT_INIT and BIT_WAIT_HIGH write the frame. -/
def Obligations.PhaseOperationsKeepTheirFrame : Prop :=
  ∀ (i : Instr) (s t : State), i.format = .phase4 → exec i s = .next t →
    (t.eng.cfgMaxRetries = s.eng.cfgMaxRetries ∧ t.eng.cfgPin = s.eng.cfgPin ∧ t.eng.ovr = s.eng.ovr ∧
      t.par = s.par ∧ t.draw = s.draw ∧ t.pending = s.pending ∧ t.freeCount = s.freeCount ∧
      t.readData = s.readData) ∧
    (i ≠ .attemptEnd → t.eng.busy = s.eng.busy ∧ t.eng.done = s.eng.done ∧ t.eng.valid = s.eng.valid ∧
      t.eng.result = s.eng.result ∧ t.eng.lastFail = s.eng.lastFail ∧ t.diag = s.diag) ∧
    (i ≠ .validate → t.eng.readingHum = s.eng.readingHum ∧ t.eng.readingTemp = s.eng.readingTemp) ∧
    (i ≠ .attemptInit → t.eng.attempt = s.eng.attempt) ∧
    (i ≠ .attemptInit → i ≠ .bitWaitHigh → t.eng.frame = s.eng.frame ∧ t.eng.bitCount = s.eng.bitCount) ∧
    (i ≠ .attemptInit → i ≠ .idleCheck → t.eng.idleCount = s.eng.idleCount)

/-- OVR and the pin have no effect on the engine's sequence (10_state.md R25, R31): two states that differ in nothing
else run every phase operation to states that differ in nothing else. -/
def Obligations.OvrAndPinDoNotSteerTheEngine : Prop :=
  ∀ (i : Instr) (s s' t : State), i.format = .phase4 → s.eng.sameButOvrPin s'.eng → s.draw = s'.draw →
    s.par = s'.par → s.diag = s'.diag → exec i s = .next t →
    ∃ t', exec i s' = .next t' ∧ t.eng.sameButOvrPin t'.eng ∧ t.diag = t'.diag

/-! ### The line -/

/-- The engine writes a level only with the line an output and reads it only with the line an input
(40_line_interface.md R97, R98, R105): so it does in every step from a good state. -/
def Obligations.LevelsAreWrittenAsOutputAndReadAsInput : Prop :=
  ∀ s s' : State, s.Inv → step s = .next s' → lineDiscipline s.eng.lineDir s'.issued = true

/-- Every line operation carries the pin (40_line_interface.md R100). For RESET's release it is the pin held before the
reset: the model's reading, log entry 5. -/
def Obligations.EveryLineOperationCarriesThePin : Prop :=
  ∀ s s' : State, step s = .next s' → ∀ p ∈ s'.issued, ∀ b : Byte, p.pin = some b → b = s.eng.cfgPin

/-- `line_dir` and `line_drv` mirror what an engine step issued without error (10_state.md R37; 40_line_interface.md
R96, R97, R99): without an error they are where its directions and levels lead, with one they keep their values. -/
def Obligations.LineDirectionMirrorsWhatWasIssued : Prop :=
  ∀ (s s' : State) (d : Draw) (rest : List Event), s.pending = .engine d :: rest → step s = .next s' →
    (d.err = false → s'.eng.lineDir = s'.issued.foldl Prim.dirAfter s.eng.lineDir ∧
      s'.eng.lineDrv = s'.issued.foldl Prim.drvAfter s.eng.lineDrv) ∧
    (d.err = true → s'.eng.lineDir = s.eng.lineDir ∧ s'.eng.lineDrv = s.eng.lineDrv)

/-- While no transaction runs the engine issues no primitive, reset apart (40_line_interface.md R109, 60_exceptions.md
R185). -/
def Obligations.IdleEngineLeavesTheLineAlone : Prop :=
  ∀ (s s' : State) (e : Event) (rest : List Event), s.Inv → s.eng.busy = false → s.pending = e :: rest → e ≠ .rst →
    step s = .next s' → s'.issued = []

/-! ### The host port -/

/-- RD_CTRL (44_host_port.md R147): the value, its fields, and no side effect. -/
def Obligations.ReadCtrlReturnsTheConfiguration : Prop :=
  decode (codeOfAccess (.read 4 0x00#8)) = .ok .rdCtrl ∧
  ∀ s : State, ∃ w : Word, exec .rdCtrl s = .next { s with readData := some w } ∧
    w = 0#8 ++ s.eng.cfgPin ++ s.eng.cfgMaxRetries ++ 0#7 ++ 0#1

/-- WR_CTRL while not busy, with START = 0 (R149). -/
def Obligations.WriteCtrlStoresTheConfiguration : Prop :=
  ∀ (s : State) (v : Word), s.eng.busy = false → v.getLsbD 0 = false →
    decode (codeOfAccess (.write 4 0x00#8 v)) = .ok (.wrCtrl v) ∧
    exec (.wrCtrl v) s = .next { s with
      eng := { s.eng with cfgMaxRetries := v.extractLsb' 8 8, cfgPin := v.extractLsb' 16 8 } }

/-- WR_CTRL or START while busy (R148): a START sets OVR; nothing else changes. -/
def Obligations.CtrlWritesWhileBusyAreDropped : Prop :=
  ∀ (s : State) (v : Word), s.eng.busy = true →
    (v.getLsbD 0 = true → decode (codeOfAccess (.write 4 0x00#8 v)) = .ok (.start v) ∧
      exec (.start v) s = .next { s with eng := { s.eng with ovr := true } }) ∧
    (v.getLsbD 0 = false → decode (codeOfAccess (.write 4 0x00#8 v)) = .ok (.wrCtrl v) ∧
      exec (.wrCtrl v) s = .next s)

/-- START with MAX_RETRIES = 0 (R150). -/
def Obligations.StartWithZeroRetriesIsRefused : Prop :=
  ∀ (s : State) (v : Word), s.eng.busy = false → v.getLsbD 0 = true → v.extractLsb' 8 8 = 0#8 →
    decode (codeOfAccess (.write 4 0x00#8 v)) = .ok (.start v) ∧
    exec (.start v) s = .next { s with
      eng := { s.eng with
        cfgMaxRetries := 0#8, cfgPin := v.extractLsb' 16 8, result := .configInvalid, done := true, valid := false
        lastFail := .none, attempt := 0#8, bitCount := 0#6, readingHum := 0#16, readingTemp := 0#16 } }

/-- START, accepted (R152). -/
def Obligations.StartBeginsATransaction : Prop :=
  ∀ (s : State) (v : Word), s.eng.busy = false → v.getLsbD 0 = true → 1 ≤ (v.extractLsb' 8 8).toNat →
    decode (codeOfAccess (.write 4 0x00#8 v)) = .ok (.start v) ∧
    exec (.start v) s = .next { s with
      eng := { s.eng with
        cfgMaxRetries := v.extractLsb' 8 8, cfgPin := v.extractLsb' 16 8, busy := true, done := false, valid := false
        result := .none, lastFail := .none, attempt := 0#8, bitCount := 0#6, readingHum := 0#16, readingTemp := 0#16
        phase := 1#4 } }

/-- RD_STATUS (R151, 10_state.md R41): every field of the word, bit by bit, and no side effect. -/
def Obligations.ReadStatusReturnsEveryField : Prop :=
  decode (codeOfAccess (.read 4 0x04#8)) = .ok .rdStatus ∧
  ∀ s : State, ∃ w : Word, exec .rdStatus s = .next { s with readData := some w } ∧
    statusBusy w = s.eng.busy ∧ statusDone w = s.eng.done ∧ statusValid w = s.eng.valid ∧
    w.getLsbD 3 = s.eng.ovr ∧ statusPhase w = s.eng.phase ∧ statusResult w = s.eng.result.code ∧
    statusLastFail w = s.eng.lastFail.code ∧ statusAttempt w = s.eng.attempt ∧
    statusBitCount w = s.eng.bitCount ∧ w.extractLsb' 30 2 = 0#2

/-- WR_STATUS (R153): bit 3 clears OVR; the other bits are ignored. -/
def Obligations.WriteStatusClearsOvr : Prop :=
  (∀ v : Word, decode (codeOfAccess (.write 4 0x04#8 v)) = .ok (.wrStatus v)) ∧
  ∀ (s : State) (v : Word),
    (v.getLsbD 3 = true → exec (.wrStatus v) s = .next { s with eng := { s.eng with ovr := false } }) ∧
    (v.getLsbD 3 = false → exec (.wrStatus v) s = .next s)

/-- RD_READING (R154): the reading with VALID, 0 without, and no side effect. -/
def Obligations.ReadReadingReturnsOnlyValidReadings : Prop :=
  decode (codeOfAccess (.read 4 0x08#8)) = .ok .rdReading ∧
  ∀ s : State,
    (s.eng.valid = true →
      exec .rdReading s = .next { s with readData := some (s.eng.readingTemp ++ s.eng.readingHum) }) ∧
    (s.eng.valid = false → exec .rdReading s = .next { s with readData := some 0x00000000#32 })

/-- WR_READING, RD_RESERVED and WR_RESERVED (R155 to R157): writes are ignored, reserved reads give 0. -/
def Obligations.ReservedAndReadOnlyAccessesHaveNoEffect : Prop :=
  ∀ (s : State) (off : Byte) (v : Word), off.toNat % 4 = 0 → 0x0C ≤ off.toNat →
    decode (codeOfAccess (.write 4 0x08#8 v)) = .ok (.wrReading v) ∧
    exec (.wrReading v) s = .next s ∧
    exec (.rdReserved off) s = .next { s with readData := some 0x00000000#32 } ∧
    exec (.wrReserved off v) s = .next s ∧
    decode (codeOfAccess (.read 4 off)) = .ok (.rdReserved off) ∧
    decode (codeOfAccess (.write 4 off v)) = .ok (.wrReserved off v)

/-- A running transaction cannot be disturbed through the port (R148, R153; 60_exceptions.md R169, R175): while busy, a
host access changes no engine element but OVR, and not the diag history. -/
def Obligations.HostCannotDisturbARunningTransaction : Prop :=
  ∀ (s s' : State) (a : Access) (rest : List Event), s.eng.busy = true → s.pending = .host a :: rest →
    step s = .next s' → s'.eng = { s.eng with ovr := s'.eng.ovr } ∧ s'.diag = s.diag

/-- The result stands once it is there (20_memory.md R65): with no transaction running, every event but `rst` and a CTRL
write with START = 1 leaves what READING and STATUS read, OVR apart, which STATUS writes clear (R153; log entry 9). -/
def Obligations.ResultsStandUntilTheNextStart : Prop :=
  ∀ (s s' : State) (e : Event) (rest : List Event), s.Inv → s.eng.busy = false → s.pending = e :: rest → e ≠ .rst →
    (∀ v : Word, v.getLsbD 0 = true → e ≠ .host (.write 4 0x00#8 v)) →
    step s = .next s' →
    s'.eng.readingWord = s.eng.readingWord ∧
    { s'.eng with ovr := s.eng.ovr }.statusWord = s.eng.statusWord

/-- `done_o` (60_exceptions.md R171, 10_state.md R23): it is DONE; it rises only when a transaction ends, in ATTEMPT_END
or by a START refused for zero retries, and falls only at an accepted START or at reset. -/
def Obligations.DoneOutputFollowsTheTransaction : Prop :=
  ∀ (s s' : State) (e : Event) (rest : List Event), s.Inv → s.pending = e :: rest → step s = .next s' →
    (s.doneO = false → s'.doneO = true →
      ((∃ d, e = .engine d) ∧ s.eng.phase = Phase.attemptEnd ∧ s'.eng.phase = Phase.idle) ∨
      (∃ v : Word, e = .host (.write 4 0x00#8 v) ∧ v.getLsbD 0 = true ∧ v.extractLsb' 8 8 = 0#8)) ∧
    (s.doneO = true → s'.doneO = false →
      e = .rst ∨
      (∃ v : Word, e = .host (.write 4 0x00#8 v) ∧ v.getLsbD 0 = true ∧ v.extractLsb' 8 8 ≠ 0#8 ∧
        s'.eng.busy = true))

/-- The result of the public operation (44_host_port.md R159): from a good state with DONE, the STATUS and READING words
say exactly how the transaction ended, and a reading is within the range invariants. -/
def Obligations.SensorResultReadsTheTransaction : Prop :=
  ∀ s : State, s.Inv → s.eng.done = true →
    (s.eng.result = .success →
      ∃ (hum : Nat) (temp : Int), sensorResult s.eng.statusWord s.eng.readingWord = some (.ok hum temp) ∧
        hum = s.eng.readingHum.toNat ∧ temp = s.eng.readingTemp.toInt ∧ hum ≤ 1000 ∧ 0 ≤ temp ∧ temp ≤ 800) ∧
    (s.eng.result = .exhaustedRetries →
      sensorResult s.eng.statusWord s.eng.readingWord = some (.exhausted s.eng.lastFail.code)) ∧
    (s.eng.result = .configInvalid →
      sensorResult s.eng.statusWord s.eng.readingWord = some .configuration) ∧
    (s.eng.result = .success ∨ s.eng.result = .exhaustedRetries ∨ s.eng.result = .configInvalid)

/-! ### The launch premises -/

/-- What the launch premises (70_reset_and_hazards.md R192) carry. Under them an attempt in which the sensor stays silent
and no operation fails passes its Idle-Check (41_protocol_driver.md R112), and a bounded wait that took its time mark in
step `n` ends (40_line_interface.md R107). Without them: on a line that reads Low when no one drives it an attempt ends
in BUSY_LINE (R192, point 3), and with an interface that is not ready for the pin it ends in PROTOCOL_FAULT (R100; log
entry 15). -/
def Obligations.LaunchPremisesCarryAnAttempt : Prop :=
  ∀ (p : Params) (pin : Byte) (x : Surroundings), p.ok = true →
    (LaunchPremises p pin x → ∀ (s : State) (n : Nat) (rest : List Event), s.par = p → s.eng.cfgPin = pin →
      s.eng.phase = Phase.attemptInit → s.pending = x.events pin n (p.nIdleSamples + 1) ++ rest →
      (∀ k, n ≤ k → k ≤ n + p.nIdleSamples → x.fails k = false ∧ x.sensor k = false) →
      ∃ t, Sys2Proof.core.run (p.nIdleSamples + 1) s = .next t ∧ t.eng.phase = Phase.startLow ∧ t.pending = rest) ∧
    (LaunchPremises p pin x → ∀ w : Nat, p.waitTimeoutUs = some w → ∀ (n : Nat) (h : Level), ∃ m : Nat,
      ∀ (s : State) (rest : List Event), s.Inv → s.par = p → s.eng.cfgPin = pin →
        (s.eng.phase, h) ∈ [(Phase.ackWaitLow, Level.high), (Phase.ackWaitHigh, Level.low),
          (Phase.bitWaitLow, Level.low), (Phase.bitWaitHigh, Level.high)] →
        s.eng.tMark = x.time n % 2 ^ p.tsBits → s.pending = x.events pin (n + 1) m ++ rest →
        ∃ j t, j ≤ m ∧ Sys2Proof.core.run j s = .next t ∧ t.eng.phase ≠ s.eng.phase) ∧
    (x.ready pin = true → (∀ k, x.sensor k = false → x.other k = false → x.level k = .low) →
      ∀ (s : State) (n : Nat) (rest : List Event), s.par = p → s.eng.cfgPin = pin →
        s.eng.phase = Phase.attemptInit → s.pending = x.events pin n 2 ++ rest →
        x.fails n = false → x.fails (n + 1) = false → x.sensor (n + 1) = false → x.other (n + 1) = false →
        ∃ t, Sys2Proof.core.run 2 s = .next t ∧ t.eng.attOut = .busyLine ∧ t.eng.phase = Phase.attemptEnd ∧
          t.pending = rest) ∧
    (x.ready pin = false → ∀ (s : State) (n : Nat) (rest : List Event), s.par = p → s.eng.cfgPin = pin →
      s.eng.phase = Phase.attemptInit → s.pending = x.events pin n 1 ++ rest →
      ∃ t, step s = .next t ∧ t.eng.attOut = .protocolFault ∧ t.eng.phase = Phase.attemptEnd ∧ t.pending = rest)
end

