-- ==== Sys2Proof/Laws/Decode.lean ====
section
/-! SUPPORT. The small facts of descriptors and offsets that decoding and encoding rest on. -/

namespace Sys2Proof

@[simp] theorem descWrite_descOf (w : Bool) (off : Byte) : descWrite (descOf w off) = w := by
  unfold descWrite descOf
  rw [BitVec.getLsbD_append]
  cases w <;> simp

@[simp] theorem descOff_descOf (w : Bool) (off : Byte) : descOff (descOf w off) = off := by
  unfold descOff descOf
  rw [BitVec.extractLsb'_append_eq_of_add_le (by decide)]
  simp

theorem descOf_descWrite_descOff (d : BitVec 9) : descOf (descWrite d) (descOff d) = d := by
  revert d
  decide

/-- The access a port code asks for is the one the encoder wrote. -/
theorem accessOfPort_descOf (w : Bool) (width : Nat) (off : Byte) (v : Word) :
    accessOfPort width (descOf w off) v = if w then .write width off v else .read width off := by
  simp [accessOfPort]

theorem decode_codeOfAccess (a : Access) : decode (codeOfAccess a) = .ok (decodeAccess a) := by
  cases a <;> simp [codeOfAccess, decode, accessOfPort]

/-- An offset is aligned when it is a multiple of 4 (20_memory.md R56). -/
theorem alignedOff_iff (off : Byte) : alignedOff off = true ↔ off.toNat % 4 = 0 := by
  revert off
  decide

theorem Access.served_iff (a : Access) : a.served = true ↔ a.width = 4 ∧ a.off.toNat % 4 = 0 := by
  simp [Access.served, alignedOff_iff]

/-- A phase code decodes to a phase operation with that code. -/
theorem decodePhase_ok {c : BitVec 4} {i : Instr} (h : decodePhase c = .ok i) :
    i.format = .phase4 ∧ encode i = .phase c := by
  unfold decodePhase at h
  have hc : BitVec.ofNat 4 c.toNat = c := by simp
  split at h <;> first
    | (rename_i hn; cases h; rw [hn] at hc; exact ⟨rfl, by rw [← hc]; rfl⟩)
    | cases h

/-- A host access never decodes to a phase operation or to RESET. -/
theorem decodeAccess_format (a : Access) : (decodeAccess a).format = .host9 := by
  unfold decodeAccess decodeRead decodeWrite
  split
  · split
    · split_ifs <;> rfl
    · split_ifs <;> rfl
  · rfl

/-- A refused access decodes to REFUSED_ACCESS (44_host_port.md R158). -/
theorem decodeAccess_refused (a : Access) (h : a.served = false) : decodeAccess a = .refusedAccess a := by
  simp [decodeAccess, h]

theorem decodeAccess_read (off : Byte) (h : alignedOff off = true) :
    decodeAccess (.read 4 off) = decodeRead off := by
  simp [decodeAccess, Access.served, Access.width, Access.off, h]

theorem decodeAccess_write (off : Byte) (v : Word) (h : alignedOff off = true) :
    decodeAccess (.write 4 off v) = decodeWrite off v := by
  simp [decodeAccess, Access.served, Access.width, Access.off, h]

/-- A reserved offset is aligned and is none of the three registers (30_encoding.md R83). -/
theorem reservedOff_iff (off : Byte) :
    reservedOff off = true ↔ alignedOff off = true ∧ off ≠ 0x00#8 ∧ off ≠ 0x04#8 ∧ off ≠ 0x08#8 := by
  simp [reservedOff, and_assoc]

end Sys2Proof
end

