-- ==== Sys2Proof/Laws/State.lean ====
section
/-! SUPPORT. What each named update of the state does to each field of State, once and for all. -/

namespace Sys2Proof.Machine

variable (s : State)

/-! ### `State.issue` -/

@[simp] theorem State.issue_eng (ps : List Prim) : (s.issue ps).eng = s.eng := rfl
@[simp] theorem State.issue_diag (ps : List Prim) : (s.issue ps).diag = s.diag := rfl
@[simp] theorem State.issue_par (ps : List Prim) : (s.issue ps).par = s.par := rfl
@[simp] theorem State.issue_draw (ps : List Prim) : (s.issue ps).draw = s.draw := rfl
@[simp] theorem State.issue_pending (ps : List Prim) : (s.issue ps).pending = s.pending := rfl
@[simp] theorem State.issue_freeCount (ps : List Prim) : (s.issue ps).freeCount = s.freeCount := rfl
@[simp] theorem State.issue_issued (ps : List Prim) : (s.issue ps).issued = ps := rfl
@[simp] theorem State.issue_readData (ps : List Prim) : (s.issue ps).readData = s.readData := rfl

/-! ### `State.emit` -/

@[simp] theorem State.emit_eng (d : Diag) : (s.emit d).eng = s.eng := rfl
@[simp] theorem State.emit_diag (d : Diag) : (s.emit d).diag = s.diag ++ [d] := rfl
@[simp] theorem State.emit_par (d : Diag) : (s.emit d).par = s.par := rfl
@[simp] theorem State.emit_draw (d : Diag) : (s.emit d).draw = s.draw := rfl
@[simp] theorem State.emit_pending (d : Diag) : (s.emit d).pending = s.pending := rfl
@[simp] theorem State.emit_freeCount (d : Diag) : (s.emit d).freeCount = s.freeCount := rfl
@[simp] theorem State.emit_issued (d : Diag) : (s.emit d).issued = s.issued := rfl
@[simp] theorem State.emit_readData (d : Diag) : (s.emit d).readData = s.readData := rfl

/-! ### `State.raise` -/

@[simp] theorem State.raise_eng (c : OutCode) : (s.raise c).eng = { s.eng with attOut := c, phase := Phase.attemptEnd } := rfl
@[simp] theorem State.raise_diag (c : OutCode) : (s.raise c).diag = s.diag := rfl
@[simp] theorem State.raise_par (c : OutCode) : (s.raise c).par = s.par := rfl
@[simp] theorem State.raise_draw (c : OutCode) : (s.raise c).draw = s.draw := rfl
@[simp] theorem State.raise_pending (c : OutCode) : (s.raise c).pending = s.pending := rfl
@[simp] theorem State.raise_freeCount (c : OutCode) : (s.raise c).freeCount = s.freeCount := rfl
@[simp] theorem State.raise_issued (c : OutCode) : (s.raise c).issued = s.issued := rfl
@[simp] theorem State.raise_readData (c : OutCode) : (s.raise c).readData = s.readData := rfl

/-! ### `State.finish` -/

@[simp] theorem State.finish_eng (r : OutCode) (v : Bool) : (s.finish r v).eng = { s.eng with result := r, valid := v, done := true, busy := false, phase := Phase.idle } := rfl
@[simp] theorem State.finish_diag (r : OutCode) (v : Bool) : (s.finish r v).diag = s.diag := rfl
@[simp] theorem State.finish_par (r : OutCode) (v : Bool) : (s.finish r v).par = s.par := rfl
@[simp] theorem State.finish_draw (r : OutCode) (v : Bool) : (s.finish r v).draw = s.draw := rfl
@[simp] theorem State.finish_pending (r : OutCode) (v : Bool) : (s.finish r v).pending = s.pending := rfl
@[simp] theorem State.finish_freeCount (r : OutCode) (v : Bool) : (s.finish r v).freeCount = s.freeCount := rfl
@[simp] theorem State.finish_issued (r : OutCode) (v : Bool) : (s.finish r v).issued = s.issued := rfl
@[simp] theorem State.finish_readData (r : OutCode) (v : Bool) : (s.finish r v).readData = s.readData := rfl

/-! ### `State.retry` -/

@[simp] theorem State.retry_eng : (s.retry).eng = { s.eng with phase := Phase.attemptInit } := rfl
@[simp] theorem State.retry_diag : (s.retry).diag = s.diag := rfl
@[simp] theorem State.retry_par : (s.retry).par = s.par := rfl
@[simp] theorem State.retry_draw : (s.retry).draw = s.draw := rfl
@[simp] theorem State.retry_pending : (s.retry).pending = s.pending := rfl
@[simp] theorem State.retry_freeCount : (s.retry).freeCount = s.freeCount := rfl
@[simp] theorem State.retry_issued : (s.retry).issued = s.issued := rfl
@[simp] theorem State.retry_readData : (s.retry).readData = s.readData := rfl

/-! ### `State.answer` -/

@[simp] theorem State.answer_eng (w : Word) : (s.answer w).eng = s.eng := rfl
@[simp] theorem State.answer_diag (w : Word) : (s.answer w).diag = s.diag := rfl
@[simp] theorem State.answer_par (w : Word) : (s.answer w).par = s.par := rfl
@[simp] theorem State.answer_draw (w : Word) : (s.answer w).draw = s.draw := rfl
@[simp] theorem State.answer_pending (w : Word) : (s.answer w).pending = s.pending := rfl
@[simp] theorem State.answer_freeCount (w : Word) : (s.answer w).freeCount = s.freeCount := rfl
@[simp] theorem State.answer_issued (w : Word) : (s.answer w).issued = s.issued := rfl
@[simp] theorem State.answer_readData (w : Word) : (s.answer w).readData = some w := rfl

/-! ### `State.configure` -/

@[simp] theorem State.configure_eng (v : Word) : (s.configure v).eng = { s.eng with cfgMaxRetries := ctrlRetries v, cfgPin := ctrlPin v } := rfl
@[simp] theorem State.configure_diag (v : Word) : (s.configure v).diag = s.diag := rfl
@[simp] theorem State.configure_par (v : Word) : (s.configure v).par = s.par := rfl
@[simp] theorem State.configure_draw (v : Word) : (s.configure v).draw = s.draw := rfl
@[simp] theorem State.configure_pending (v : Word) : (s.configure v).pending = s.pending := rfl
@[simp] theorem State.configure_freeCount (v : Word) : (s.configure v).freeCount = s.freeCount := rfl
@[simp] theorem State.configure_issued (v : Word) : (s.configure v).issued = s.issued := rfl
@[simp] theorem State.configure_readData (v : Word) : (s.configure v).readData = s.readData := rfl

/-! ### `State.discardResult` -/

@[simp] theorem State.discardResult_eng : (s.discardResult).eng = { s.eng with valid := false, lastFail := .none, attempt := 0#8, bitCount := 0#6, readingHum := 0#16, readingTemp := 0#16 } := rfl
@[simp] theorem State.discardResult_diag : (s.discardResult).diag = s.diag := rfl
@[simp] theorem State.discardResult_par : (s.discardResult).par = s.par := rfl
@[simp] theorem State.discardResult_draw : (s.discardResult).draw = s.draw := rfl
@[simp] theorem State.discardResult_pending : (s.discardResult).pending = s.pending := rfl
@[simp] theorem State.discardResult_freeCount : (s.discardResult).freeCount = s.freeCount := rfl
@[simp] theorem State.discardResult_issued : (s.discardResult).issued = s.issued := rfl
@[simp] theorem State.discardResult_readData : (s.discardResult).readData = s.readData := rfl

/-! ### `State.enter` -/

@[simp] theorem State.enter_eng (t : Nat) (p : BitVec 4) : (s.enter t p).eng = { s.eng with tMark := t, phase := p } := rfl
@[simp] theorem State.enter_diag (t : Nat) (p : BitVec 4) : (s.enter t p).diag = s.diag := rfl
@[simp] theorem State.enter_par (t : Nat) (p : BitVec 4) : (s.enter t p).par = s.par := rfl
@[simp] theorem State.enter_draw (t : Nat) (p : BitVec 4) : (s.enter t p).draw = s.draw := rfl
@[simp] theorem State.enter_pending (t : Nat) (p : BitVec 4) : (s.enter t p).pending = s.pending := rfl
@[simp] theorem State.enter_freeCount (t : Nat) (p : BitVec 4) : (s.enter t p).freeCount = s.freeCount := rfl
@[simp] theorem State.enter_issued (t : Nat) (p : BitVec 4) : (s.enter t p).issued = s.issued := rfl
@[simp] theorem State.enter_readData (t : Nat) (p : BitVec 4) : (s.enter t p).readData = s.readData := rfl

/-! ### `State.freshAttempt` -/

@[simp] theorem State.freshAttempt_eng : (s.freshAttempt).eng = { s.eng with
      attempt := s.eng.attempt + 1#8, frame := Frame.fresh, bitCount := 0#6, idleCount := 0#4 } := rfl
@[simp] theorem State.freshAttempt_diag : (s.freshAttempt).diag = s.diag := rfl
@[simp] theorem State.freshAttempt_par : (s.freshAttempt).par = s.par := rfl
@[simp] theorem State.freshAttempt_draw : (s.freshAttempt).draw = s.draw := rfl
@[simp] theorem State.freshAttempt_pending : (s.freshAttempt).pending = s.pending := rfl
@[simp] theorem State.freshAttempt_freeCount : (s.freshAttempt).freeCount = s.freeCount := rfl
@[simp] theorem State.freshAttempt_issued : (s.freshAttempt).issued = [.setDir s.eng.cfgPin .inPD] := rfl
@[simp] theorem State.freshAttempt_readData : (s.freshAttempt).readData = s.readData := rfl

/-! ### `State.countSample` -/

@[simp] theorem State.countSample_eng : (s.countSample).eng = { s.eng with idleCount := s.eng.idleCount + 1#4 } := rfl
@[simp] theorem State.countSample_diag : (s.countSample).diag = s.diag := rfl
@[simp] theorem State.countSample_par : (s.countSample).par = s.par := rfl
@[simp] theorem State.countSample_draw : (s.countSample).draw = s.draw := rfl
@[simp] theorem State.countSample_pending : (s.countSample).pending = s.pending := rfl
@[simp] theorem State.countSample_freeCount : (s.countSample).freeCount = s.freeCount := rfl
@[simp] theorem State.countSample_issued : (s.countSample).issued = [.readLevel s.eng.cfgPin, .sleepMs s.par.tIdleSampleMs] := rfl
@[simp] theorem State.countSample_readData : (s.countSample).readData = s.readData := rfl

/-! ### `State.recordFailure` -/

@[simp] theorem State.recordFailure_eng (c : OutCode) : (s.recordFailure c).eng = { s.eng with lastFail := c } := rfl
@[simp] theorem State.recordFailure_diag (c : OutCode) : (s.recordFailure c).diag = s.diag ++ [{ attempt := s.eng.attempt, outcome := c }] := rfl
@[simp] theorem State.recordFailure_par (c : OutCode) : (s.recordFailure c).par = s.par := rfl
@[simp] theorem State.recordFailure_draw (c : OutCode) : (s.recordFailure c).draw = s.draw := rfl
@[simp] theorem State.recordFailure_pending (c : OutCode) : (s.recordFailure c).pending = s.pending := rfl
@[simp] theorem State.recordFailure_freeCount (c : OutCode) : (s.recordFailure c).freeCount = s.freeCount := rfl
@[simp] theorem State.recordFailure_issued (c : OutCode) : (s.recordFailure c).issued = s.issued := rfl
@[simp] theorem State.recordFailure_readData (c : OutCode) : (s.recordFailure c).readData = s.readData := rfl

/-! ### `State.startAccepted` -/

@[simp] theorem State.startAccepted_eng (v : Word) : (s.startAccepted v).eng = { s.eng with
      cfgMaxRetries := ctrlRetries v, cfgPin := ctrlPin v, busy := true, done := false, valid := false, result := .none,
      lastFail := .none, attempt := 0#8, bitCount := 0#6, readingHum := 0#16, readingTemp := 0#16,
      phase := Phase.attemptInit } := rfl
@[simp] theorem State.startAccepted_diag (v : Word) : (s.startAccepted v).diag = s.diag := rfl
@[simp] theorem State.startAccepted_par (v : Word) : (s.startAccepted v).par = s.par := rfl
@[simp] theorem State.startAccepted_draw (v : Word) : (s.startAccepted v).draw = s.draw := rfl
@[simp] theorem State.startAccepted_pending (v : Word) : (s.startAccepted v).pending = s.pending := rfl
@[simp] theorem State.startAccepted_freeCount (v : Word) : (s.startAccepted v).freeCount = s.freeCount := rfl
@[simp] theorem State.startAccepted_issued (v : Word) : (s.startAccepted v).issued = s.issued := rfl
@[simp] theorem State.startAccepted_readData (v : Word) : (s.startAccepted v).readData = s.readData := rfl

/-! ### `State.startRefused` -/

@[simp] theorem State.startRefused_eng (v : Word) : (s.startRefused v).eng = { s.eng with
      cfgMaxRetries := ctrlRetries v, cfgPin := ctrlPin v, done := true, valid := false, result := .configInvalid,
      lastFail := .none, attempt := 0#8, bitCount := 0#6, readingHum := 0#16, readingTemp := 0#16 } := rfl
@[simp] theorem State.startRefused_diag (v : Word) : (s.startRefused v).diag = s.diag := rfl
@[simp] theorem State.startRefused_par (v : Word) : (s.startRefused v).par = s.par := rfl
@[simp] theorem State.startRefused_draw (v : Word) : (s.startRefused v).draw = s.draw := rfl
@[simp] theorem State.startRefused_pending (v : Word) : (s.startRefused v).pending = s.pending := rfl
@[simp] theorem State.startRefused_freeCount (v : Word) : (s.startRefused v).freeCount = s.freeCount := rfl
@[simp] theorem State.startRefused_issued (v : Word) : (s.startRefused v).issued = s.issued := rfl
@[simp] theorem State.startRefused_readData (v : Word) : (s.startRefused v).readData = s.readData := rfl

/-! ### `captureBit` -/

@[simp] theorem captureBit_diag (k : Fin 40) (t : Nat) : (captureBit k t s).diag = s.diag := rfl
@[simp] theorem captureBit_par (k : Fin 40) (t : Nat) : (captureBit k t s).par = s.par := rfl
@[simp] theorem captureBit_draw (k : Fin 40) (t : Nat) : (captureBit k t s).draw = s.draw := rfl
@[simp] theorem captureBit_pending (k : Fin 40) (t : Nat) : (captureBit k t s).pending = s.pending := rfl
@[simp] theorem captureBit_freeCount (k : Fin 40) (t : Nat) : (captureBit k t s).freeCount = s.freeCount := rfl
@[simp] theorem captureBit_issued (k : Fin 40) (t : Nat) : (captureBit k t s).issued = s.issued := rfl
@[simp] theorem captureBit_readData (k : Fin 40) (t : Nat) : (captureBit k t s).readData = s.readData := rfl
@[simp] theorem captureBit_eng (k : Fin 40) (t : Nat) :
    (captureBit k t s).eng =
      { s.eng with
        frame := s.eng.frame.capture k (pulseBit s.par (elapsed s.par.tsBits t s.eng.tMark))
        bitCount := BitVec.ofNat 6 (k.val + 1)
        tMark := t
        phase := if k.val + 1 = 40 then Phase.validate else Phase.bitWaitLow } := rfl

/-! ### `State.ctrlBusy` and `State.release`, which branch -/

@[simp] theorem State.ctrlBusy_diag (v : Word) : (s.ctrlBusy v).diag = s.diag := by
  unfold State.ctrlBusy; split <;> rfl
@[simp] theorem State.ctrlBusy_par (v : Word) : (s.ctrlBusy v).par = s.par := by
  unfold State.ctrlBusy; split <;> rfl
@[simp] theorem State.ctrlBusy_draw (v : Word) : (s.ctrlBusy v).draw = s.draw := by
  unfold State.ctrlBusy; split <;> rfl
@[simp] theorem State.ctrlBusy_pending (v : Word) : (s.ctrlBusy v).pending = s.pending := by
  unfold State.ctrlBusy; split <;> rfl
@[simp] theorem State.ctrlBusy_freeCount (v : Word) : (s.ctrlBusy v).freeCount = s.freeCount := by
  unfold State.ctrlBusy; split <;> rfl
@[simp] theorem State.ctrlBusy_issued (v : Word) : (s.ctrlBusy v).issued = s.issued := by
  unfold State.ctrlBusy; split <;> rfl
@[simp] theorem State.ctrlBusy_readData (v : Word) : (s.ctrlBusy v).readData = s.readData := by
  unfold State.ctrlBusy; split <;> rfl
@[simp] theorem State.ctrlBusy_eng (v : Word) :
    (s.ctrlBusy v).eng = { s.eng with ovr := ctrlStart v || s.eng.ovr } := by
  unfold State.ctrlBusy; split <;> simp_all
@[simp] theorem State.release_diag : s.release.diag = s.diag := by
  unfold State.release; dsimp only; split <;> rfl
@[simp] theorem State.release_par : s.release.par = s.par := by
  unfold State.release; dsimp only; split <;> rfl
@[simp] theorem State.release_draw : s.release.draw = s.draw := by
  unfold State.release; dsimp only; split <;> rfl
@[simp] theorem State.release_pending : s.release.pending = s.pending := by
  unfold State.release; dsimp only; split <;> rfl
@[simp] theorem State.release_freeCount : s.release.freeCount = s.freeCount := by
  unfold State.release; dsimp only; split <;> rfl
@[simp] theorem State.release_issued : s.release.issued = [.setDir s.eng.cfgPin .inPD] := by
  unfold State.release; dsimp only; split <;> rfl
@[simp] theorem State.release_readData : s.release.readData = s.readData := by
  unfold State.release; dsimp only; split <;> rfl
@[simp] theorem State.release_eng :
    s.release.eng = { s.eng with lineDir := if s.draw.err then s.eng.lineDir else .inPD } := by
  unfold State.release; dsimp only; split <;> rfl

/-! ### Beginning an event -/

@[simp] theorem State.begin_eng (e : Event) : (s.begin e).eng = s.eng := by
  cases e <;> rfl
@[simp] theorem State.begin_diag (e : Event) : (s.begin e).diag = s.diag := by
  cases e <;> rfl
@[simp] theorem State.begin_par (e : Event) : (s.begin e).par = s.par := by
  cases e <;> rfl
@[simp] theorem State.begin_pending (e : Event) : (s.begin e).pending = s.pending := by
  cases e <;> rfl
@[simp] theorem State.begin_freeCount (e : Event) : (s.begin e).freeCount = s.freeCount := by
  cases e <;> rfl
@[simp] theorem State.begin_issued (e : Event) : (s.begin e).issued = [] := by
  cases e <;> rfl
@[simp] theorem State.begin_readData (e : Event) : (s.begin e).readData = none := by
  cases e <;> rfl
@[simp] theorem State.begin_engine_draw (d : Draw) : (s.begin (.engine d)).draw = d := rfl
@[simp] theorem State.begin_host_draw (a : Access) : (s.begin (.host a)).draw = s.draw := rfl
@[simp] theorem State.begin_rst_draw : (s.begin .rst).draw = s.draw := rfl

/-! ### Taking the next event -/

@[simp] theorem State.nextEvent_eng : s.nextEvent.2.eng = s.eng := by
  unfold State.nextEvent; split <;> rfl
@[simp] theorem State.nextEvent_diag : s.nextEvent.2.diag = s.diag := by
  unfold State.nextEvent; split <;> rfl
@[simp] theorem State.nextEvent_par : s.nextEvent.2.par = s.par := by
  unfold State.nextEvent; split <;> rfl
@[simp] theorem State.nextEvent_draw : s.nextEvent.2.draw = s.draw := by
  unfold State.nextEvent; split <;> rfl
@[simp] theorem State.nextEvent_issued : s.nextEvent.2.issued = s.issued := by
  unfold State.nextEvent; split <;> rfl
@[simp] theorem State.nextEvent_readData : s.nextEvent.2.readData = s.readData := by
  unfold State.nextEvent; split <;> rfl

theorem State.nextEvent_cons (e : Event) (rest : List Event) (h : s.pending = e :: rest) :
    s.nextEvent = (e, { s with pending := rest }) := by
  unfold State.nextEvent; rw [h]

theorem State.nextEvent_nil (h : s.pending = []) :
    s.nextEvent = (Config.freeEvent s.freeCount, { s with freeCount := s.freeCount + 1 }) := by
  unfold State.nextEvent; rw [h]

/-! ### Placing a code -/

@[simp] theorem State.place_par (c : Code) : (s.place c).par = s.par := by
  cases c <;> rfl
@[simp] theorem State.place_phase_pending (p : BitVec 4) :
    (s.place (.phase p)).pending = .engine s.draw :: s.pending := rfl
@[simp] theorem State.place_phase_eng (p : BitVec 4) :
    (s.place (.phase p)).eng = { s.eng with phase := p } := rfl
@[simp] theorem State.place_port_pending (w : Nat) (d : BitVec 9) (v : Word) :
    (s.place (.port w d v)).pending = .host (accessOfPort w d v) :: s.pending := rfl
@[simp] theorem State.place_port_eng (w : Nat) (d : BitVec 9) (v : Word) :
    (s.place (.port w d v)).eng = s.eng := rfl
@[simp] theorem State.place_rst_pending : (s.place .rst).pending = .rst :: s.pending := rfl
@[simp] theorem State.place_rst_eng : (s.place .rst).eng = s.eng := rfl

end Sys2Proof.Machine
end

