-- ==== Sys2Proof/Laws/Ops.lean ====
section
/-! SUPPORT. What each shared operation can do, said once: modular elapsed time, the wait bound, the common wait, and
one step. -/

namespace Sys2Proof.Machine

/-! ### Time (30_encoding.md R86) -/

theorem State.now_lt (s : State) : s.now < 2 ^ s.par.tsBits :=
  Nat.mod_lt _ (by positivity)

theorem elapsed_lt (n t m : Nat) : elapsed n t m < 2 ^ n := by
  have hpos : (0 : Int) < ((2 ^ n : Nat) : Int) := by positivity
  have h1 := Int.emod_lt_of_pos ((t : Int) - m) hpos
  have h2 := Int.emod_nonneg ((t : Int) - m) hpos.ne'
  unfold elapsed
  omega

@[simp] theorem elapsed_self (n t : Nat) : elapsed n t t = 0 := by
  simp [elapsed]

/-- Without a wrap the modular difference is the plain one. -/
theorem elapsed_of_le (n t m : Nat) (hm : m ≤ t) (ht : t < 2 ^ n) : elapsed n t m = t - m := by
  unfold elapsed
  rw [Int.emod_eq_of_lt (by omega) (by omega)]
  omega

theorem timedOut_none (p : Params) (h : p.waitTimeoutUs = none) (d : Nat) : timedOut p d = false := by
  simp [timedOut, h]

theorem timedOut_some (p : Params) (w d : Nat) (h : p.waitTimeoutUs = some w) :
    timedOut p d = true ↔ w ≤ d := by
  simp [timedOut, h]

theorem pulseBit_eq_true (p : Params) (d : Nat) : pulseBit p d = true ↔ p.bitThresholdUs ≤ d := by
  simp [pulseBit]

theorem pulseBit_eq_false (p : Params) (d : Nat) : pulseBit p d = false ↔ d < p.bitThresholdUs := by
  simp [pulseBit]

/-! ### The common wait (41_protocol_driver.md R110), branch by branch and then as one inversion -/

/-- The poll's record: one level read on the pin, then one time read. -/
def pollPrims (s : State) : List Prim := [.readLevel s.eng.cfgPin, .now]

variable {h : Level} {x : Nat → State → Result} {s s' : State}

theorem wait_error (he : s.draw.err = true) :
    wait h x s = .next ((s.issue (pollPrims s)).raise .protocolFault) := by
  simp [wait, he, pollPrims]

theorem wait_edge (he : s.draw.err = false) (hl : s.draw.lv ≠ h) :
    wait h x s = x s.now (s.issue (pollPrims s)) := by
  simp [wait, he, hl, pollPrims]

theorem wait_expired (he : s.draw.err = false) (hl : s.draw.lv = h)
    (ht : timedOut s.par (elapsed s.par.tsBits s.now s.eng.tMark) = true) :
    wait h x s = .next ((s.issue (pollPrims s)).raise .timeout) := by
  simp [wait, he, hl, ht, pollPrims]

theorem wait_again (he : s.draw.err = false) (hl : s.draw.lv = h)
    (ht : timedOut s.par (elapsed s.par.tsBits s.now s.eng.tMark) = false) :
    wait h x s = .next (s.issue (pollPrims s)) := by
  simp [wait, he, hl, ht, pollPrims]

/-- Everything one poll can do. -/
theorem wait_cases (hw : wait h x s = .next s') :
    (s.draw.err = true ∧ s' = (s.issue (pollPrims s)).raise .protocolFault) ∨
    (s.draw.err = false ∧ s.draw.lv ≠ h ∧ x s.now (s.issue (pollPrims s)) = .next s') ∨
    (s.draw.err = false ∧ s.draw.lv = h ∧
      timedOut s.par (elapsed s.par.tsBits s.now s.eng.tMark) = true ∧
      s' = (s.issue (pollPrims s)).raise .timeout) ∨
    (s.draw.err = false ∧ s.draw.lv = h ∧
      timedOut s.par (elapsed s.par.tsBits s.now s.eng.tMark) = false ∧ s' = s.issue (pollPrims s)) := by
  cases he : s.draw.err
  case true =>
    rw [wait_error he] at hw
    cases hw
    exact .inl ⟨rfl, rfl⟩
  case false =>
    by_cases hl : s.draw.lv = h
    · cases ht : timedOut s.par (elapsed s.par.tsBits s.now s.eng.tMark)
      case true =>
        rw [wait_expired he hl ht] at hw
        cases hw
        exact .inr (.inr (.inl ⟨rfl, hl, rfl, rfl⟩))
      case false =>
        rw [wait_again he hl ht] at hw
        cases hw
        exact .inr (.inr (.inr ⟨rfl, hl, rfl, rfl⟩))
    · rw [wait_edge he hl] at hw
      exact .inr (.inl ⟨rfl, hl, hw⟩)

/-! ### One step -/

theorem step_bad_configuration (hp : s.par.ok = false) : step s = .refused (.badConfiguration s.par) := by
  simp [step, hp]

theorem step_ok (hp : s.par.ok = true) {i : Instr} (hd : decode (fetchCode s.nextEvent.1 s) = .ok i) :
    step s = exec i (s.nextEvent.2.begin s.nextEvent.1) := by
  simp [step, hp, hd]

theorem step_reserved (hp : s.par.ok = true) {c : BitVec 4}
    (hd : decode (fetchCode s.nextEvent.1 s) = .rejected (.reservedPhase c)) :
    step s = .fault (.reservedPhase c) := by
  simp [step, hp, hd]

/-- Everything a step that answers a next state is: the decoded operation, run after the event began. -/
theorem step_cases (hs : step s = .next s') :
    s.par.ok = true ∧ ∃ i, decode (fetchCode s.nextEvent.1 s) = .ok i ∧
      exec i (s.nextEvent.2.begin s.nextEvent.1) = .next s' := by
  cases hp : s.par.ok
  case false =>
    rw [step_bad_configuration hp] at hs
    cases hs
  case true =>
    refine ⟨rfl, ?_⟩
    cases hd : decode (fetchCode s.nextEvent.1 s) with
    | ok i =>
      rw [step_ok hp hd] at hs
      exact ⟨i, rfl, hs⟩
    | rejected e =>
      cases e with
      | reservedPhase c =>
        rw [step_reserved hp hd] at hs
        cases hs

end Sys2Proof.Machine
end

