-- ==== Sys2Proof/Laws/Exec.lean ====
section
/-! SUPPORT. Everything the operations can do, said once: if a phase operation or a host access answers a next state,
it is one of the cases below. Later proofs cite these instead of unfolding a meaning. -/

namespace Sys2Proof.Machine

/-- The wait operations with the level each waits out (41_protocol_driver.md R115 to R118). -/
@[simp] def waits : List (Instr × Level) :=
  [(.ackWaitLow, .high), (.ackWaitHigh, .low), (.bitWaitLow, .low), (.bitWaitHigh, .high)]

/-- The next states of the phase operations (41_protocol_driver.md, 42_frame_validator.md, 43_retry_controller.md). -/
inductive PhaseNext (s : State) : Instr → State → Prop where
  | idle : PhaseNext s .idle s
  | initFailed (he : s.draw.err = true) : PhaseNext s .attemptInit (s.freshAttempt.raise .protocolFault)
  | init (he : s.draw.err = false) : PhaseNext s .attemptInit
      { s.freshAttempt with eng.attOut := .none, eng.lineDir := .inPD, eng.phase := Phase.idleCheck }
  | sampleFailed (he : s.draw.err = true) :
      PhaseNext s .idleCheck ((s.issue [.readLevel s.eng.cfgPin]).raise .protocolFault)
  | sampleLow (he : s.draw.err = false) (hl : s.draw.lv = .low) :
      PhaseNext s .idleCheck ((s.issue [.readLevel s.eng.cfgPin]).raise .busyLine)
  | sampleLast (he : s.draw.err = false) (hl : s.draw.lv = .high)
      (hn : s.eng.idleCount.toNat + 1 = s.par.nIdleSamples) :
      PhaseNext s .idleCheck { s.countSample with eng.phase := Phase.startLow }
  | sample (he : s.draw.err = false) (hl : s.draw.lv = .high)
      (hn : s.eng.idleCount.toNat + 1 ≠ s.par.nIdleSamples) : PhaseNext s .idleCheck s.countSample
  | lowFailed (he : s.draw.err = true) : PhaseNext s .startLow
      ((s.issue [.setDir s.eng.cfgPin .out, .writeLevel s.eng.cfgPin .low]).raise .protocolFault)
  | low (he : s.draw.err = false) : PhaseNext s .startLow
      { s.issue [.setDir s.eng.cfgPin .out, .writeLevel s.eng.cfgPin .low, .sleepMs s.par.tStartLowMs] with
        eng.lineDir := .out, eng.lineDrv := .low, eng.phase := Phase.startHigh }
  | highFailed (he : s.draw.err = true) : PhaseNext s .startHigh
      ((s.issue [.writeLevel s.eng.cfgPin .high, .sleepUs s.par.tStartHighUs, .setDir s.eng.cfgPin .inPD,
        .now]).raise .protocolFault)
  | high (he : s.draw.err = false) : PhaseNext s .startHigh
      { s.issue [.writeLevel s.eng.cfgPin .high, .sleepUs s.par.tStartHighUs, .setDir s.eng.cfgPin .inPD, .now] with
        eng.lineDrv := .high, eng.lineDir := .inPD, eng.tMark := s.now, eng.phase := Phase.ackWaitLow }
  | pollFailed (i : Instr) (l : Level) (hi : (i, l) ∈ waits) (he : s.draw.err = true) : PhaseNext s i ((s.issue (pollPrims s)).raise .protocolFault)
  | pollExpired (i : Instr) (l : Level) (hi : (i, l) ∈ waits) (he : s.draw.err = false) (hl : s.draw.lv = l)
      (ht : timedOut s.par (elapsed s.par.tsBits s.now s.eng.tMark) = true) :
      PhaseNext s i ((s.issue (pollPrims s)).raise .timeout)
  | pollAgain (i : Instr) (l : Level) (hi : (i, l) ∈ waits) (he : s.draw.err = false) (hl : s.draw.lv = l)
      (ht : timedOut s.par (elapsed s.par.tsBits s.now s.eng.tMark) = false) :
      PhaseNext s i (s.issue (pollPrims s))
  | ackLow (he : s.draw.err = false) (hl : s.draw.lv = .low) :
      PhaseNext s .ackWaitLow ((s.issue (pollPrims s)).enter s.now Phase.ackWaitHigh)
  | ackHigh (he : s.draw.err = false) (hl : s.draw.lv = .high) :
      PhaseNext s .ackWaitHigh ((s.issue (pollPrims s)).enter s.now Phase.bitWaitLow)
  | bitLow (he : s.draw.err = false) (hl : s.draw.lv = .high) :
      PhaseNext s .bitWaitLow ((s.issue (pollPrims s)).enter s.now Phase.bitWaitHigh)
  | bitHigh (he : s.draw.err = false) (hl : s.draw.lv = .low) (k : Fin 40) (hk : s.eng.bitCount.toNat = k.val) :
      PhaseNext s .bitWaitHigh (captureBit k s.now (s.issue (pollPrims s)))
  | accepted (hv : s.eng.frame.verdict = .success) : PhaseNext s .validate
      { s with
        eng.attOut := .success, eng.phase := Phase.attemptEnd
        eng.readingHum := BitVec.ofNat 16 s.eng.frame.hum10, eng.readingTemp := BitVec.ofNat 16 s.eng.frame.temp10 }
  | rejected (hv : s.eng.frame.verdict ≠ .success) : PhaseNext s .validate
      { s with eng.attOut := s.eng.frame.verdict, eng.phase := Phase.attemptEnd }
  | succeeded (ha : s.eng.attOut = .success) : PhaseNext s .attemptEnd (s.release.finish .success true)
  | exhausted (ha : s.eng.attOut ≠ .success) (hn : s.eng.cfgMaxRetries.toNat ≤ s.eng.attempt.toNat) :
      PhaseNext s .attemptEnd ((s.release.recordFailure s.eng.attOut).finish .exhaustedRetries false)
  | retried (ha : s.eng.attOut ≠ .success) (hn : s.eng.attempt.toNat < s.eng.cfgMaxRetries.toNat) :
      PhaseNext s .attemptEnd (s.release.recordFailure s.eng.attOut).retry

variable {s t : State}

theorem simpleWait_cases {i : Instr} {l : Level} {p : BitVec 4} (hi : (i, l) ∈ waits)
    (hp : s.draw.err = false → s.draw.lv ≠ l → PhaseNext s i ((s.issue (pollPrims s)).enter s.now p))
    (hw : wait l (fun t s' => .next (s'.enter t p)) s = .next t) : PhaseNext s i t := by
  rcases wait_cases hw with ⟨he, rfl⟩ | ⟨he, hl, hx⟩ | ⟨he, hl, ht, rfl⟩ | ⟨he, hl, ht, rfl⟩
  · exact .pollFailed i l hi he
  · cases hx
    exact hp he hl
  · exact .pollExpired i l hi he hl ht
  · exact .pollAgain i l hi he hl ht

theorem Level.ne_high {l : Level} : l ≠ .high ↔ l = .low := by
  cases l <;> decide

theorem Level.ne_low {l : Level} : l ≠ .low ↔ l = .high := by
  cases l <;> decide

theorem attemptInit_cases (h : execAttemptInit s = .next t) : PhaseNext s .attemptInit t := by
  unfold execAttemptInit at h
  cases he : s.draw.err <;> simp only [he] at h <;> cases h
  · exact .init he
  · exact .initFailed he

theorem idleCheck_cases (h : execIdleCheck s = .next t) : PhaseNext s .idleCheck t := by
  unfold execIdleCheck at h
  cases he : s.draw.err
  · cases hl : s.draw.lv <;> simp only [he, hl, Bool.false_eq_true, if_false] at h
    · cases h
      exact .sampleLow he hl
    · by_cases hn : s.eng.idleCount.toNat + 1 = s.par.nIdleSamples
      · rw [if_pos hn] at h
        cases h
        exact .sampleLast he hl hn
      · rw [if_neg hn] at h
        cases h
        exact .sample he hl hn
  · simp only [he] at h
    cases h
    exact .sampleFailed he

theorem startLow_cases (h : execStartLow s = .next t) : PhaseNext s .startLow t := by
  unfold execStartLow at h
  cases he : s.draw.err <;> simp only [he] at h <;> cases h
  · exact .low he
  · exact .lowFailed he

theorem startHigh_cases (h : execStartHigh s = .next t) : PhaseNext s .startHigh t := by
  unfold execStartHigh at h
  cases he : s.draw.err <;> simp only [he] at h <;> cases h
  · exact .high he
  · exact .highFailed he

theorem bitWaitHigh_cases (h : execBitWaitHigh s = .next t) : PhaseNext s .bitWaitHigh t := by
  unfold execBitWaitHigh at h
  rcases wait_cases h with ⟨he, rfl⟩ | ⟨he, hl, hx⟩ | ⟨he, hl, ht, rfl⟩ | ⟨he, hl, ht, rfl⟩
  · exact .pollFailed _ .high (by simp [waits]) he
  · split at hx
    · cases hx
      exact .bitHigh he (Level.ne_high.1 hl) _ rfl
    · cases hx
  · exact .pollExpired _ .high (by simp [waits]) he hl ht
  · exact .pollAgain _ .high (by simp [waits]) he hl ht

theorem validate_cases (h : execValidate s = .next t) : PhaseNext s .validate t := by
  unfold execValidate at h
  by_cases hv : s.eng.frame.verdict = .success
  · simp only [hv, if_true] at h
    cases h
    exact .accepted hv
  · simp only [hv, if_false] at h
    cases h
    exact .rejected hv

theorem attemptEnd_cases (h : execAttemptEnd s = .next t) : PhaseNext s .attemptEnd t := by
  unfold execAttemptEnd at h
  by_cases ha : s.eng.attOut = .success
  · simp only [ha, if_true] at h
    cases h
    exact .succeeded ha
  · by_cases hn : s.eng.cfgMaxRetries.toNat ≤ s.eng.attempt.toNat
    · simp only [ha, hn, if_true, if_false] at h
      cases h
      exact .exhausted ha hn
    · simp only [ha, hn, if_false] at h
      cases h
      exact .retried ha (by omega)

/-- The inversion of every phase operation. -/
theorem phase_cases {i : Instr} (hi : i.format = .phase4) (h : exec i s = .next t) : PhaseNext s i t := by
  cases i <;> try (exact absurd hi (by decide))
  case idle => cases h; exact .idle
  case attemptInit => exact attemptInit_cases h
  case idleCheck => exact idleCheck_cases h
  case startLow => exact startLow_cases h
  case startHigh => exact startHigh_cases h
  case ackWaitLow => exact simpleWait_cases (by simp [waits]) (fun he hl => .ackLow he (Level.ne_high.1 hl)) h
  case ackWaitHigh => exact simpleWait_cases (by simp [waits]) (fun he hl => .ackHigh he (Level.ne_low.1 hl)) h
  case bitWaitLow => exact simpleWait_cases (by simp [waits]) (fun he hl => .bitLow he (Level.ne_low.1 hl)) h
  case bitWaitHigh => exact bitWaitHigh_cases h
  case validate => exact validate_cases h
  case attemptEnd => exact attemptEnd_cases h
  all_goals cases hi

theorem capture_edge (he : s.draw.err = false) (hl : s.draw.lv = .low) (k : Fin 40)
    (hk : s.eng.bitCount.toNat = k.val) :
    execBitWaitHigh s = .next (captureBit k s.now (s.issue (pollPrims s))) := by
  have h40 : (s.issue (pollPrims s)).eng.bitCount.toNat < 40 := by simp [hk]
  have hk' : (⟨(s.issue (pollPrims s)).eng.bitCount.toNat, h40⟩ : Fin 40) = k := Fin.ext (by simp [hk])
  unfold execBitWaitHigh
  rw [wait_edge he (by simp [hl]), dif_pos h40, hk']

/-- The converse of `phase_cases`: each case does happen. -/
theorem phase_next {i : Instr} (h : PhaseNext s i t) : exec i s = .next t := by
  cases h with
  | idle => rfl
  | initFailed he | init he => simp [exec, execAttemptInit, he]
  | sampleFailed he => simp [exec, execIdleCheck, he]
  | sampleLow he hl => simp [exec, execIdleCheck, he, hl]
  | sampleLast he hl hn | sample he hl hn => simp [exec, execIdleCheck, he, hl, hn]
  | lowFailed he | low he => simp [exec, execStartLow, he]
  | highFailed he | high he => simp [exec, execStartHigh, he]
  | pollFailed i l hi he =>
    simp only [waits, List.mem_cons, Prod.mk.injEq, List.not_mem_nil, or_false] at hi
    rcases hi with ⟨rfl, -⟩ | ⟨rfl, -⟩ | ⟨rfl, -⟩ | ⟨rfl, -⟩ <;>
      simp only [exec, execAckWaitLow, execAckWaitHigh, execBitWaitLow, execBitWaitHigh, wait_error he]
  | pollExpired i l hi he hl ht =>
    simp only [waits, List.mem_cons, Prod.mk.injEq, List.not_mem_nil, or_false] at hi
    rcases hi with ⟨rfl, rfl⟩ | ⟨rfl, rfl⟩ | ⟨rfl, rfl⟩ | ⟨rfl, rfl⟩ <;>
      simp only [exec, execAckWaitLow, execAckWaitHigh, execBitWaitLow, execBitWaitHigh, wait_expired he hl ht]
  | pollAgain i l hi he hl ht =>
    simp only [waits, List.mem_cons, Prod.mk.injEq, List.not_mem_nil, or_false] at hi
    rcases hi with ⟨rfl, rfl⟩ | ⟨rfl, rfl⟩ | ⟨rfl, rfl⟩ | ⟨rfl, rfl⟩ <;>
      simp only [exec, execAckWaitLow, execAckWaitHigh, execBitWaitLow, execBitWaitHigh, wait_again he hl ht]
  | ackLow he hl =>
    unfold exec execAckWaitLow
    exact wait_edge he (by simp [hl])
  | ackHigh he hl =>
    unfold exec execAckWaitHigh
    exact wait_edge he (by simp [hl])
  | bitLow he hl =>
    unfold exec execBitWaitLow
    exact wait_edge he (by simp [hl])
  | bitHigh he hl k hk => exact capture_edge he hl k hk
  | accepted hv | rejected hv => simp [exec, execValidate, hv]
  | succeeded ha => simp [exec, execAttemptEnd, ha]
  | exhausted ha hn => simp [exec, execAttemptEnd, ha, hn]
  | retried ha hn => simp [exec, execAttemptEnd, ha, Nat.not_le.2 hn]

/-- The next states of the host accesses and of RESET (44_host_port.md, 70_reset_and_hazards.md R189). -/
inductive PortNext (s : State) : Instr → State → Prop where
  | rdCtrl : PortNext s .rdCtrl (s.answer s.eng.ctrlWord)
  | wrCtrlBusy (v : Word) (hb : s.eng.busy = true) : PortNext s (.wrCtrl v) (s.ctrlBusy v)
  | wrCtrl (v : Word) (hb : s.eng.busy = false) : PortNext s (.wrCtrl v) (s.configure v)
  | startBusy (v : Word) (hb : s.eng.busy = true) : PortNext s (.start v) (s.ctrlBusy v)
  | startRefused (v : Word) (hb : s.eng.busy = false) (hn : ctrlRetries v = 0#8) :
      PortNext s (.start v) (s.startRefused v)
  | startAccepted (v : Word) (hb : s.eng.busy = false) (hn : ctrlRetries v ≠ 0#8) :
      PortNext s (.start v) (s.startAccepted v)
  | rdStatus : PortNext s .rdStatus (s.answer s.eng.statusWord)
  | clearOvr (v : Word) (hv : statusOvr v = true) : PortNext s (.wrStatus v) { s with eng.ovr := false }
  | wrStatus (v : Word) (hv : statusOvr v = false) : PortNext s (.wrStatus v) s
  | rdReading : PortNext s .rdReading (s.answer s.eng.readingWord)
  | wrReading (v : Word) : PortNext s (.wrReading v) s
  | rdReserved (off : Byte) : PortNext s (.rdReserved off) (s.answer 0#32)
  | wrReserved (off : Byte) (v : Word) : PortNext s (.wrReserved off v) s
  | reset : PortNext s .reset { s.issue [.setDir s.eng.cfgPin .inPD] with eng := Engine.reset s.par }

theorem start_cases {v : Word} (h : execStart v s = .next t) : PortNext s (.start v) t := by
  unfold execStart at h
  cases hb : s.eng.busy
  · by_cases hn : ctrlRetries v = 0#8
    · simp only [hb, hn, if_true, Bool.false_eq_true, if_false] at h
      cases h
      exact .startRefused v hb hn
    · simp only [hb, hn, Bool.false_eq_true, if_false] at h
      cases h
      exact .startAccepted v hb hn
  · simp only [hb] at h
    cases h
    exact .startBusy v hb

theorem wrCtrl_cases {v : Word} (h : execWrCtrl v s = .next t) : PortNext s (.wrCtrl v) t := by
  unfold execWrCtrl at h
  cases hb : s.eng.busy <;> simp only [hb] at h <;> cases h
  · exact .wrCtrl v hb
  · exact .wrCtrlBusy v hb

theorem wrStatus_cases {v : Word} (h : execWrStatus v s = .next t) : PortNext s (.wrStatus v) t := by
  unfold execWrStatus at h
  cases hv : statusOvr v <;> simp only [hv] at h <;> cases h
  · exact .wrStatus v hv
  · exact .clearOvr v hv

/-- The inversion of every host access and of RESET. -/
theorem port_cases {i : Instr} (hi : i.format ≠ .phase4) (h : exec i s = .next t) : PortNext s i t := by
  cases i <;> try (exact absurd rfl hi)
  case rdCtrl => cases h; exact .rdCtrl
  case wrCtrl v => exact wrCtrl_cases h
  case start v => exact start_cases h
  case rdStatus => cases h; exact .rdStatus
  case wrStatus v => exact wrStatus_cases h
  case rdReading => cases h; exact .rdReading
  case wrReading v => cases h; exact .wrReading v
  case rdReserved off => cases h; exact .rdReserved off
  case wrReserved off v => cases h; exact .wrReserved off v
  case refusedAccess a => cases h
  case reset => cases h; exact .reset

end Sys2Proof.Machine
end

