-- ==== Sys2Proof/Laws/Frame.lean ====
section
/-! SUPPORT. The frame's bytes and bits (30_encoding.md R73, 41_protocol_driver.md R118, R120). -/

namespace Sys2Proof.Machine

@[simp] theorem Frame.byte_setByte_self (f : Frame) (j : Fin 5) (v : Byte) : (f.setByte j v).byte j = v := by
  fin_cases j <;> rfl

theorem Frame.byte_setByte_ne (f : Frame) (j l : Fin 5) (v : Byte) (h : l ≠ j) :
    (f.setByte j v).byte l = f.byte l := by
  fin_cases j <;> fin_cases l <;> first | rfl | exact absurd rfl h

/-- Two capture bits share a byte and a position only if they are the same bit. -/
theorem capture_injective (j k : Fin 40) (hb : captureByte j = captureByte k) (hp : capturePos j = capturePos k) :
    j = k := by
  simp only [captureByte, capturePos, Fin.mk.injEq] at hb hp
  ext
  omega

theorem Frame.bit_clearBit (f : Frame) (k j : Fin 40) :
    (f.clearBit k).bit j = (f.bit j && decide (j ≠ k)) := by
  unfold Frame.bit Frame.clearBit
  by_cases hb : captureByte j = captureByte k
  · rw [hb, Frame.byte_setByte_self]
    have hpj : capturePos j < 8 := by unfold capturePos; omega
    by_cases hp : capturePos j = capturePos k
    · have hjk := capture_injective j k hb hp
      subst hjk
      simp [hpj]
    · have hjk : j ≠ k := fun h => hp (by rw [h])
      have : decide (j ≠ k) = true := by simpa using hjk
      rw [this]
      simp [hpj]
      intro _
      omega
  · rw [Frame.byte_setByte_ne _ _ _ _ hb]
    have hjk : j ≠ k := fun h => hb (by rw [h])
    simp [hjk]

@[simp] theorem Frame.capture_true (f : Frame) (k : Fin 40) : f.capture k true = f := rfl

@[simp] theorem Frame.capture_false (f : Frame) (k : Fin 40) : f.capture k false = f.clearBit k := rfl

/-- Capturing `b` at `k` keeps bit `k` only if `b` is 1, and keeps every other bit. -/
theorem Frame.bit_capture (f : Frame) (k j : Fin 40) (b : Bool) :
    (f.capture k b).bit j = (f.bit j && (decide (j ≠ k) || b)) := by
  cases b
  · simp [Frame.bit_clearBit]
  · simp

theorem Frame.bit_fresh (k : Fin 40) : Frame.fresh.bit k = true := by
  revert k
  decide

/-- A frame is its 40 bits. -/
theorem Frame.ext_bits (f g : Frame) (h : ∀ k : Fin 40, f.bit k = g.bit k) : f = g := by
  have hbyte : ∀ j : Fin 5, f.byte j = g.byte j := by
    intro j
    ext i hi
    have hk := h ⟨8 * j.val + (7 - i), by omega⟩
    have h1 : captureByte ⟨8 * j.val + (7 - i), by omega⟩ = j := by
      simp only [captureByte]; ext; simp only; omega
    have h2 : capturePos ⟨8 * j.val + (7 - i), by omega⟩ = i := by
      simp only [capturePos]; omega
    simpa [Frame.bit, h1, h2, BitVec.getLsbD_eq_getElem hi] using hk
  have h0 := hbyte 0
  have h1 := hbyte 1
  have h2 := hbyte 2
  have h3 := hbyte 3
  have h4 := hbyte 4
  cases f
  cases g
  simp_all [Frame.byte]

/-! ### The validator's bounds (42_frame_validator.md R131, R134) -/

theorem Frame.hum10_le (f : Frame) : f.hum10 ≤ 2805 := by
  unfold Frame.hum10
  have := f.b0.isLt
  have := f.b1.isLt
  omega

theorem Frame.temp10_le (f : Frame) : f.temp10 ≤ 2805 := by
  unfold Frame.temp10
  have := f.b2.isLt
  have := f.b3.isLt
  omega

theorem Frame.checksum_lt (f : Frame) : f.checksum < 256 := Nat.mod_lt _ (by decide)

theorem Frame.checksumOk_iff (f : Frame) : f.checksumOk = true ↔ f.checksum = f.b4.toNat := by
  simp [Frame.checksumOk]

theorem Frame.inRange_iff (f : Frame) : f.inRange = true ↔ f.hum10 ≤ 1000 ∧ f.temp10 ≤ 800 := by
  simp [Frame.inRange]

end Sys2Proof.Machine
end

