-- ==== Sys2Proof/Laws/PerInstr.lean ====
section
/-! SUPPORT. Statements made per instruction: every operation has one format, of one fixed length (30_encoding.md R70,
R89). -/

namespace Sys2Proof.Laws.FixedFormat

/-- The encoded form of an operation is in the format its row of the opcode table names. -/
def Statement (i : Instr) : Prop := (encode i).format = i.format

theorem idle : Statement .idle := rfl
theorem attemptInit : Statement .attemptInit := rfl
theorem idleCheck : Statement .idleCheck := rfl
theorem startLow : Statement .startLow := rfl
theorem startHigh : Statement .startHigh := rfl
theorem ackWaitLow : Statement .ackWaitLow := rfl
theorem ackWaitHigh : Statement .ackWaitHigh := rfl
theorem bitWaitLow : Statement .bitWaitLow := rfl
theorem bitWaitHigh : Statement .bitWaitHigh := rfl
theorem validate : Statement .validate := rfl
theorem attemptEnd : Statement .attemptEnd := rfl
theorem rdCtrl : Statement .rdCtrl := rfl
theorem wrCtrl (v : Word) : Statement (.wrCtrl v) := rfl
theorem start (v : Word) : Statement (.start v) := rfl
theorem rdStatus : Statement .rdStatus := rfl
theorem wrStatus (v : Word) : Statement (.wrStatus v) := rfl
theorem rdReading : Statement .rdReading := rfl
theorem wrReading (v : Word) : Statement (.wrReading v) := rfl
theorem rdReserved (off : Byte) : Statement (.rdReserved off) := rfl
theorem wrReserved (off : Byte) (v : Word) : Statement (.wrReserved off v) := rfl
theorem refusedAccess (a : Access) : Statement (.refusedAccess a) := by cases a <;> rfl
theorem reset : Statement .reset := rfl

end Sys2Proof.Laws.FixedFormat
end

