-- ==== Sys2Proof/Laws/Run.lean ====
section
/-! SUPPORT. One step by the kind of its event, forwards and backwards, and the steps of a run. -/

namespace Sys2Proof.Machine

variable {s t : State}

/-! ### A step that answers a next state, by its event -/

theorem nextEvent_fields {e : Event} {s0 : State} (hn : s.nextEvent = (e, s0)) :
    s0.eng = s.eng ∧ s0.diag = s.diag ∧ s0.par = s.par := by
  have h1 := s.nextEvent_eng
  have h2 := s.nextEvent_diag
  have h3 := s.nextEvent_par
  rw [hn] at h1 h2 h3
  exact ⟨h1, h2, h3⟩

/-- Whatever event comes next, a step is one of the cases of a phase operation, of a host access, or RESET. -/
theorem step_by_event (h : step s = .next t) :
    s.par.ok = true ∧ ∃ e s0, s.nextEvent = (e, s0) ∧
      ((∃ d i, e = .engine d ∧ decodePhase s.eng.phase = .ok i ∧ PhaseNext (s0.begin e) i t) ∨
       (∃ a, e = .host a ∧ PortNext (s0.begin e) (decodeAccess a) t) ∨
       (e = .rst ∧ PortNext (s0.begin e) .reset t)) := by
  obtain ⟨hp, i, hd, he⟩ := step_cases h
  refine ⟨hp, s.nextEvent.1, s.nextEvent.2, rfl, ?_⟩
  cases hev : s.nextEvent.1 with
  | engine d =>
    rw [hev] at hd he
    exact .inl ⟨d, i, rfl, hd, phase_cases (decodePhase_ok hd).1 he⟩
  | host a =>
    rw [hev] at hd he
    simp only [fetchCode, decode_codeOfAccess, Decoded.ok.injEq] at hd
    subst hd
    exact .inr (.inl ⟨a, rfl, port_cases (by simp [decodeAccess_format]) he⟩)
  | rst =>
    rw [hev] at hd he
    cases hd
    exact .inr (.inr ⟨rfl, port_cases (by simp [Instr.format]) he⟩)

theorem engine_step_cases {d : Draw} {rest : List Event} (hp : s.pending = .engine d :: rest)
    (h : step s = .next t) : ∃ i, decodePhase s.eng.phase = .ok i ∧
      PhaseNext { s with pending := rest, draw := d, issued := [], readData := none } i t := by
  obtain ⟨-, e, s0, hn, h⟩ := step_by_event h
  rw [s.nextEvent_cons _ _ hp] at hn
  cases hn
  rcases h with ⟨d', i, h0, h1, h⟩ | ⟨a, h0, -⟩ | ⟨h0, -⟩ <;> cases h0
  exact ⟨i, h1, h⟩

theorem host_step_cases {a : Access} {rest : List Event} (hp : s.pending = .host a :: rest)
    (h : step s = .next t) :
    PortNext { s with pending := rest, issued := [], readData := none } (decodeAccess a) t := by
  obtain ⟨-, e, s0, hn, h⟩ := step_by_event h
  rw [s.nextEvent_cons _ _ hp] at hn
  cases hn
  rcases h with ⟨d', i, h0, -⟩ | ⟨a', h0, h⟩ | ⟨h0, -⟩ <;> cases h0
  exact h

theorem reset_step_cases {rest : List Event} (hp : s.pending = .rst :: rest) (h : step s = .next t) :
    PortNext { s with pending := rest, issued := [], readData := none } .reset t := by
  obtain ⟨-, e, s0, hn, h⟩ := step_by_event h
  rw [s.nextEvent_cons _ _ hp] at hn
  cases hn
  rcases h with ⟨d', i, h0, -⟩ | ⟨a, h0, -⟩ | ⟨-, h⟩
  · cases h0
  · cases h0
  · exact h

/-- Forwards: an engine step runs the operation its phase code names. -/
theorem engine_step {d : Draw} {rest : List Event} {i : Instr} (hok : s.par.ok = true)
    (hp : s.pending = .engine d :: rest) (hd : decodePhase s.eng.phase = .ok i)
    (h : PhaseNext { s with pending := rest, draw := d, issued := [], readData := none } i t) : step s = .next t := by
  have hn := s.nextEvent_cons _ _ hp
  rw [step_ok hok (i := i) (by rw [hn]; exact hd), hn]
  exact phase_next h

/-! ### Runs -/

theorem core_run_succ (M : Host.Core) (n : Nat) (s t : M.State) (h : M.step s = .next t) :
    M.run (n + 1) s = M.run n t := by
  rw [Host.Core.run, h]

theorem core_run_succ_next (M : Host.Core) (n : Nat) (s u : M.State) (h : M.run (n + 1) s = .next u) :
    ∃ t, M.step s = .next t ∧ M.run n t = .next u := by
  rw [Host.Core.run] at h
  cases hs : M.step s with
  | next t =>
    rw [hs] at h
    exact ⟨t, rfl, h⟩
  | fault r =>
    rw [hs] at h
    cases h
  | refused r =>
    rw [hs] at h
    cases h

theorem run_succ (n : Nat) (h : step s = .next t) : Sys2Proof.core.run (n + 1) s = Sys2Proof.core.run n t :=
  core_run_succ Sys2Proof.core n s t h

theorem run_add (m n : Nat) (s t : State) (h : Sys2Proof.core.run m s = .next t) :
    Sys2Proof.core.run (m + n) s = Sys2Proof.core.run n t := by
  induction m generalizing s with
  | zero =>
    cases h
    simp
  | succ m ih =>
    obtain ⟨u, h1, h2⟩ := core_run_succ_next Sys2Proof.core _ _ _ h
    rw [show m + 1 + n = (m + n) + 1 by omega, run_succ _ h1]
    exact ih _ h2

end Sys2Proof.Machine
end

