-- ==== Sys2Proof/Laws/Safety.lean ====
section
/-! SUPPORT. What agreeing on `attemptView` means field by field, and the events that the surroundings offer. -/

namespace Sys2Proof.Machine

/-- Agreement on what a step of an attempt may depend on (43_retry_controller.md R142). -/
theorem Engine.attemptView_eq_iff (e e' : Engine) : e.attemptView = e'.attemptView ↔
    e.phase = e'.phase ∧ e.busy = e'.busy ∧ e.done = e'.done ∧ e.valid = e'.valid ∧ e.ovr = e'.ovr ∧
    e.result = e'.result ∧ e.attempt = e'.attempt ∧ e.cfgMaxRetries = e'.cfgMaxRetries ∧ e.cfgPin = e'.cfgPin ∧
    e.readingHum = e'.readingHum ∧ e.readingTemp = e'.readingTemp ∧
    (5 ≤ e.phase.toNat ∧ e.phase.toNat ≤ 8 → e.tMark = e'.tMark) ∧
    (e.phase ≠ Phase.attemptInit →
      e.frame = e'.frame ∧ e.bitCount = e'.bitCount ∧ e.idleCount = e'.idleCount ∧ e.attOut = e'.attOut) := by
  obtain ⟨⟩ := e
  obtain ⟨⟩ := e'
  simp only [Engine.attemptView, Engine.mk.injEq]
  constructor
  · rintro ⟨rfl, rfl, rfl, rfl, rfl, rfl, -, rfl, h1, h2, rfl, rfl, rfl, rfl, h3, h4, h5, -, -⟩
    refine ⟨rfl, rfl, rfl, rfl, rfl, rfl, rfl, rfl, rfl, rfl, rfl, fun h => ?_, fun h => ?_⟩
    · simpa [h] using h4
    · simp only [if_neg h] at h1 h2 h3 h5
      exact ⟨h3, h1, h2, h5⟩
  · rintro ⟨rfl, rfl, rfl, rfl, rfl, rfl, rfl, rfl, rfl, rfl, rfl, h1, h2⟩
    simp only [true_and, and_true]
    refine ⟨?_, ?_, ?_, ?_, ?_⟩ <;> split <;> simp_all

variable (x : Surroundings) (pin : Byte) (n : Nat)

@[simp] theorem Surroundings.draw_lv : (x.draw pin n).lv = x.level n := rfl
@[simp] theorem Surroundings.draw_t : (x.draw pin n).t = x.time n := rfl
@[simp] theorem Surroundings.draw_err : (x.draw pin n).err = (!x.ready pin || x.fails n) := rfl

@[simp] theorem Surroundings.events_zero : x.events pin n 0 = [] := rfl

theorem Surroundings.events_succ (m : Nat) :
    x.events pin n (m + 1) = .engine (x.draw pin n) :: x.events pin (n + 1) m := by
  simp [Surroundings.events, List.range'_succ]

/-- Under the launch premises a step in which the sensor is silent and no operation fails reads an error-free High. -/
theorem LaunchPremises.draw_high {p : Params} {x : Surroundings} {pin : Byte} {n : Nat} (h : LaunchPremises p pin x)
    (hs : x.sensor n = false) (hf : x.fails n = false) : .engine (x.draw pin n) = answers .high (x.time n) false := by
  simp [Surroundings.draw, answers, h.line_ready, hf, h.idle_high n hs (h.sole_driver n)]

end Sys2Proof.Machine
end

