-- ==== Sys2Proof/Tests/Slice0.lean ====
section
/-! SUPPORT. The model's own tests. Expected values come from the vectors of spec/95_test_vectors.md (named in the
comments) or from the rule cited. At the end, for every statement with hypotheses, a concrete case that meets them. -/

namespace Sys2Proof.Tests

open Sys2Proof.Machine

/-! ### Helpers: a small state, and what one step leaves -/

/-- A busy engine in phase `p`; the rest as at reset. -/
def busyIn (p : BitVec 4) : Engine := { Engine.reset {} with phase := p, busy := true, cfgMaxRetries := 5#8 }

/-- The machine with this engine and these events to come. -/
def machine (e : Engine) (evs : List Event) : State := { State.reset with eng := e, pending := evs }

/-- The state after one step, if it is a next state. -/
def after (s : State) : Option State :=
  match step s with
  | .next t => some t
  | .fault _ => none
  | .refused _ => none

/-- The engine after one engine step on the given draws. -/
def polled (e : Engine) (lv : Level) (t : Nat) (err : Bool) : Option Engine :=
  (after (machine e [answers lv t err])).map (·.eng)

/-- The engine after one event. -/
def done (e : Engine) (ev : Event) : Option Engine := (after (machine e [ev])).map (·.eng)

/-- What the host gets back from one access. -/
def answered (e : Engine) (ev : Event) : Option Word := (after (machine e [ev])).bind (·.readData)

/-- A frame from its five bytes. -/
def frameOf (b0 b1 b2 b3 b4 : Byte) : Frame := { b0 := b0, b1 := b1, b2 := b2, b3 := b3, b4 := b4 }

/-! ### WellFormed: each check refuses an ill-formed term -/

theorem test_wf_wrCtrl_with_start_bit : (Instr.wrCtrl 0x00000501#32).wf = false := by decide
theorem test_wf_start_without_start_bit : (Instr.start 0x00000500#32).wf = false := by decide
theorem test_wf_rdReserved_at_registers :
    (Instr.rdReserved 0x00#8).wf = false ∧ (Instr.rdReserved 0x04#8).wf = false ∧ (Instr.rdReserved 0x08#8).wf = false ∧
    (Instr.rdReserved 0x0D#8).wf = false := by decide
theorem test_wf_wrReserved_at_registers :
    (Instr.wrReserved 0x00#8 0).wf = false ∧ (Instr.wrReserved 0x04#8 0).wf = false ∧
    (Instr.wrReserved 0x08#8 0).wf = false ∧ (Instr.wrReserved 0xFE#8 0).wf = false := by decide
theorem test_wf_refusedAccess_of_a_served_one : (Instr.refusedAccess (.read 4 0x04#8)).wf = false := by decide
theorem test_wf_boundaries : (Instr.rdReserved 0x0C#8).wf = true ∧ (Instr.wrReserved 0xFC#8 1).wf = true ∧
    (Instr.refusedAccess (.read 1 0x00#8)).wf = true ∧ (Instr.wrCtrl 0xFFFFFFFE#32).wf = true := by decide

/-! ### Decoding, the words written out from 30_encoding.md R80, R82, R83 -/

theorem test_decode_phases :
    decode (.phase 0b0000#4) = .ok .idle ∧ decode (.phase 0b0001#4) = .ok .attemptInit ∧
    decode (.phase 0b0010#4) = .ok .idleCheck ∧ decode (.phase 0b0011#4) = .ok .startLow ∧
    decode (.phase 0b0100#4) = .ok .startHigh ∧ decode (.phase 0b0101#4) = .ok .ackWaitLow ∧
    decode (.phase 0b0110#4) = .ok .ackWaitHigh ∧ decode (.phase 0b0111#4) = .ok .bitWaitLow ∧
    decode (.phase 0b1000#4) = .ok .bitWaitHigh ∧ decode (.phase 0b1001#4) = .ok .validate ∧
    decode (.phase 0b1010#4) = .ok .attemptEnd := by decide

/-- 10_state.md R47. -/
theorem test_decode_reserved_phases :
    decode (.phase 0b1011#4) = .rejected (.reservedPhase 11#4) ∧
    decode (.phase 0b1111#4) = .rejected (.reservedPhase 15#4) := by decide

theorem test_decode_host_reads :
    decode (.port 4 0b000000000#9 0) = .ok .rdCtrl ∧ decode (.port 4 0b000000100#9 0) = .ok .rdStatus ∧
    decode (.port 4 0b000001000#9 0) = .ok .rdReading ∧
    decode (.port 4 0b000001100#9 0) = .ok (.rdReserved 0x0C#8) ∧
    decode (.port 4 0b011111100#9 0) = .ok (.rdReserved 0xFC#8) := by decide

theorem test_decode_host_writes :
    decode (.port 4 0b100000000#9 0x00030300#32) = .ok (.wrCtrl 0x00030300#32) ∧
    decode (.port 4 0b100000000#9 0x00000101#32) = .ok (.start 0x00000101#32) ∧
    decode (.port 4 0b100000100#9 0x00000008#32) = .ok (.wrStatus 0x00000008#32) ∧
    decode (.port 4 0b100001000#9 0xFFFFFFFF#32) = .ok (.wrReading 0xFFFFFFFF#32) ∧
    decode (.port 4 0b100010000#9 0x00000001#32) = .ok (.wrReserved 0x10#8 0x00000001#32) := by decide

/-- V-H-14, and a write at an odd offset. -/
theorem test_decode_refused :
    decode (.port 4 0b000000010#9 0) = .ok (.refusedAccess (.read 4 0x02#8)) ∧
    decode (.port 1 0b000000000#9 0) = .ok (.refusedAccess (.read 1 0x00#8)) ∧
    decode (.port 4 0b100000001#9 7) = .ok (.refusedAccess (.write 4 0x01#8 7)) := by decide

theorem test_decode_reset : decode .rst = .ok .reset := by decide

/-- Table words: a phase code in the low 4 bits of a byte, a descriptor in bits 8:0 and the data word above. -/
theorem test_decode_table_words :
    decodeTableWord 8 0xA = some .attemptEnd ∧ decodeTableWord 8 0xB = none ∧
    decodeTableWord 16 0x104 = some (.wrStatus 0#32) ∧ decodeTableWord 48 0x000005010100 = some (.start 0x00000501#32) ∧
    decodeTableWord 16 0x00C = some (.rdReserved 0x0C#8) ∧ decodeTableWord 0 0 = some .reset := by decide

/-- V-E-1, V-E-7. -/
theorem test_encode : ctrlOf 3#8 3#8 true = 0x00030301#32 ∧ encode .bitWaitHigh = .phase 0b1000#4 ∧
    encode (.start 0x00030301#32) = .port 4 0x100#9 0x00030301#32 := by decide

/-- V-E-4 to V-E-6. -/
theorem test_diag_words :
    Diag.word { attempt := 1#8, outcome := .busyLine } = 0x012#12 ∧
    Diag.word { attempt := 2#8, outcome := .timeout } = 0x026#12 ∧
    Diag.word { attempt := 12#8, outcome := .protocolFault } = 0x0C3#12 := by decide

/-- 30_encoding.md R77, R78. -/
theorem test_outcome_codes : OutCode.ofCode 6#4 = some .timeout ∧ OutCode.ofCode 9#4 = none ∧
    ∀ c : BitVec 4, (OutCode.ofCode c).map OutCode.code = if c.toNat ≤ 8 then some c else none := by decide

/-! ### The phase operations, one step each -/

/-- 43_retry_controller.md R136. -/
theorem test_idle : polled (Engine.reset {}) .high 7 true = some (Engine.reset {}) := by decide

/-- V-S-1. -/
theorem test_attemptInit :
    polled { busyIn 1#4 with frame := frameOf 1 2 3 4 5, idleCount := 3#4, bitCount := 9#6, attOut := .timeout,
                             lineDir := .out } .low 0 false =
      some { busyIn 2#4 with attempt := 1#8 } := by decide

/-- V-S-2. -/
theorem test_attemptInit_error :
    polled { busyIn 1#4 with attempt := 1#8, frame := frameOf 1 2 3 4 5, lineDir := .out } .low 0 true =
      some { busyIn 10#4 with attempt := 2#8, attOut := .protocolFault, lineDir := .out } := by decide

/-- V-S-4. -/
theorem test_idleCheck_last : polled { busyIn 2#4 with idleCount := 9#4 } .high 0 false =
    some { busyIn 3#4 with idleCount := 10#4 } := by decide

/-- V-S-5 and V-S-7. -/
theorem test_idleCheck_low :
    polled { busyIn 2#4 with idleCount := 9#4 } .low 0 false =
      some { busyIn 10#4 with idleCount := 9#4, attOut := .busyLine } ∧
    polled (busyIn 2#4) .low 0 true = some { busyIn 10#4 with attOut := .protocolFault } := by decide

/-- V-S-9. -/
theorem test_startLow : polled { busyIn 3#4 with lineDrv := .high } .low 0 false =
    some { busyIn 4#4 with lineDir := .out, lineDrv := .low } := by decide

/-- The primitives of R113, in order. -/
theorem test_startLow_issues : (after (machine { busyIn 3#4 with cfgPin := 7#8 } [answers .low 0 false])).map (·.issued) =
    some [.setDir 7#8 .out, .writeLevel 7#8 .low, .sleepMs 18] := by decide

/-- V-S-11. -/
theorem test_startHigh : polled { busyIn 4#4 with lineDir := .out } .low 20000 false =
    some { busyIn 5#4 with lineDrv := .high, tMark := 20000 } := by decide

/-- V-S-12. -/
theorem test_startHigh_error : polled { busyIn 4#4 with lineDir := .out, tMark := 3 } .low 20000 true =
    some { busyIn 10#4 with lineDir := .out, tMark := 3, attOut := .protocolFault } := by decide

/-- V-W-2 and V-W-4. -/
theorem test_ackWaitLow :
    polled { busyIn 5#4 with tMark := 20000 } .low 20030 false = some { busyIn 6#4 with tMark := 20030 } ∧
    polled { busyIn 5#4 with tMark := 5000 } .high 6000 false =
      some { busyIn 10#4 with tMark := 5000, attOut := .timeout } := by decide

/-- V-W-9 and V-W-11. -/
theorem test_ackWaitLow_wraps :
    polled { busyIn 5#4 with tMark := 4294966796 } .high 499 false = some { busyIn 5#4 with tMark := 4294966796 } ∧
    polled { busyIn 5#4 with tMark := 1000 } .high 999 false =
      some { busyIn 10#4 with tMark := 1000, attOut := .timeout } := by decide

/-- V-W-13. -/
theorem test_ackWaitHigh : polled { busyIn 6#4 with tMark := 20030 } .high 20110 false =
    some { busyIn 7#4 with tMark := 20110 } := by decide

/-- V-W-14 and V-W-15. -/
theorem test_bitWaitLow :
    polled { busyIn 7#4 with tMark := 20110 } .high 20200 false = some { busyIn 8#4 with tMark := 20200 } ∧
    polled { busyIn 7#4 with tMark := 20227 } .low 20250 true =
      some { busyIn 10#4 with tMark := 20227, attOut := .protocolFault } := by decide

/-- V-BIT-2 and V-BIT-5. -/
theorem test_bitWaitHigh :
    polled { busyIn 8#4 with bitCount := 3#6 } .low 27 false =
      some { busyIn 7#4 with bitCount := 4#6, tMark := 27, frame := frameOf 0xEF 0xFF 0xFF 0xFF 0xFF } ∧
    polled { busyIn 8#4 with bitCount := 39#6 } .low 27 false =
      some { busyIn 9#4 with bitCount := 40#6, tMark := 27, frame := frameOf 0xFF 0xFF 0xFF 0xFF 0xFE } := by decide

/-- V-W-6: the edge beats the bound. -/
theorem test_bitWaitHigh_edge_beats_bound : polled { busyIn 8#4 with tMark := 100 } .low 1100 false =
    some { busyIn 7#4 with tMark := 1100, bitCount := 1#6 } := by decide

/-- V-PW-4, V-PW-5, V-PW-8, V-PW-9. -/
theorem test_pulse_width : pulseBit {} 39 = false ∧ pulseBit {} 40 = true ∧ pulseBit {} 0xFFFFFFFF = true ∧
    pulseBit { bitThresholdUs := 50 } 49 = false ∧ pulseBit { bitThresholdUs := 50 } 50 = true := by decide

/-- V-VAL-10. -/
theorem test_validate : polled { busyIn 9#4 with frame := frameOf 0x3C 0x05 0x16 0x03 0x5A } .low 0 false =
    some { busyIn 10#4 with frame := frameOf 0x3C 0x05 0x16 0x03 0x5A, attOut := .success
                            readingHum := 605#16, readingTemp := 223#16 } := by decide

/-- V-VAL-1 to V-VAL-9. -/
theorem test_verdicts :
    (frameOf 0x00 0x00 0x00 0x00 0x00).verdict = .success ∧
    (frameOf 0xFF 0xFF 0xFF 0xFF 0xFF).verdict = .checksumMismatch ∧
    (frameOf 0x64 0x00 0x50 0x00 0xB4).verdict = .success ∧
    (frameOf 0x64 0x01 0x50 0x00 0xB5).verdict = .rangeInvalid ∧
    (frameOf 0x64 0x00 0x50 0x01 0xB5).verdict = .rangeInvalid ∧
    (frameOf 0xFF 0xFF 0xFF 0xFF 0xFC).verdict = .rangeInvalid ∧
    (frameOf 0x63 0x0A 0x00 0x00 0x6D).verdict = .success ∧
    (frameOf 0x65 0x00 0x18 0x00 0x7E).verdict = .checksumMismatch ∧
    (frameOf 0x00 0x00 0x80 0x00 0x80).verdict = .rangeInvalid := by decide

/-- V-R-1. -/
theorem test_attemptEnd_success :
    polled { busyIn 10#4 with attempt := 1#8, attOut := .success, lineDir := .out } .low 0 false =
      some { busyIn 0#4 with attempt := 1#8, attOut := .success, busy := false, done := true, valid := true
                             result := .success } := by decide

/-- V-R-3, V-R-6 and V-R-7: the diag words. -/
theorem test_attemptEnd_diag :
    (after (machine { busyIn 10#4 with attempt := 3#8, cfgMaxRetries := 3#8, attOut := .checksumMismatch }
      [answers .low 0 false])).map (fun t => (t.diag.map Diag.word, t.eng.result, t.eng.done, t.eng.phase)) =
      some ([0x034#12], .exhaustedRetries, true, 0#4) ∧
    (after (machine { busyIn 10#4 with attempt := 255#8, cfgMaxRetries := 255#8, attOut := .protocolFault }
      [answers .low 0 false])).map (fun t => (t.diag.map Diag.word, t.eng.result)) =
      some ([0xFF3#12], .exhaustedRetries) ∧
    (after (machine { busyIn 10#4 with attempt := 2#8, attOut := .rangeInvalid, lineDir := .out }
      [answers .low 0 true])).map (fun t => (t.diag.map Diag.word, t.eng.result, t.eng.phase, t.eng.lineDir)) =
      some ([0x025#12], .none, 1#4, .out) := by decide

/-! ### The host port, one access each -/

/-- V-H-1 to V-H-3. -/
theorem test_reads_at_reset : answered (Engine.reset {}) (rd .ctrl) = some 0x00000500#32 ∧
    answered (Engine.reset {}) (rd .status) = some 0x00000000#32 ∧
    answered (Engine.reset {}) (rd .reading) = some 0x00000000#32 := by decide

/-- V-H-4. -/
theorem test_wrCtrl : done (Engine.reset {}) (wr .ctrl 0x00030300#32) =
    some { Engine.reset {} with cfgMaxRetries := 3#8, cfgPin := 3#8 } := by decide

/-- V-H-8. -/
theorem test_wrCtrl_busy : done (busyIn 5#4) (wr .ctrl 0x00070700#32) = some (busyIn 5#4) := by decide

/-- V-H-5, V-H-6, V-H-16: STATUS after a START. -/
theorem test_start : (done (Engine.reset {}) (wr .ctrl 0x00000501#32)).map Engine.statusWord = some 0x00000011#32 ∧
    (done (Engine.reset {}) (wr .ctrl 0x00000001#32)).map (fun e => (e.statusWord, e.ctrlWord)) =
      some (0x00000802#32, 0x00000000#32) ∧
    (done { Engine.reset {} with result := .configInvalid, done := true } (wr .ctrl 0x00000301#32)).map
      Engine.statusWord = some 0x00000011#32 := by decide

/-- V-H-7. -/
theorem test_start_busy : done { busyIn 1#4 with cfgMaxRetries := 1#8 } (wr .ctrl 0x00000501#32) =
    some { busyIn 1#4 with cfgMaxRetries := 1#8, ovr := true } := by decide

/-- Program A's final STATUS word. -/
theorem test_rdStatus :
    answered { Engine.reset {} with done := true, valid := true, result := .success, attempt := 1#8, bitCount := 40#6 }
      (rd .status) = some 0x28010106#32 := by decide

/-- V-H-9, V-H-10. -/
theorem test_wrStatus : (done { busyIn 1#4 with ovr := true } (wr .status 0x00000008#32)).map (·.ovr) = some false ∧
    (done { busyIn 1#4 with ovr := true } (wr .status 0xFFFFFFF7#32)).map (·.ovr) = some true := by decide

/-- V-E-2, and V-H-17. -/
theorem test_rdReading :
    answered { Engine.reset {} with valid := true, readingHum := 1000#16, readingTemp := 800#16 } (rd .reading) =
      some 0x032003E8#32 ∧
    answered { busyIn 10#4 with readingHum := 1000#16, readingTemp := 800#16 } (rd .reading) = some 0#32 := by decide

/-- V-H-11. -/
theorem test_wrReading : done (busyIn 5#4) (wr .reading 0xFFFFFFFF#32) = some (busyIn 5#4) := by decide

/-- V-H-12. -/
theorem test_rdReserved : answered (busyIn 5#4) (rd (.at 0x0C#8)) = some 0#32 ∧
    answered (busyIn 5#4) (rd (.at 0xFC#8)) = some 0#32 := by decide

/-- V-H-13. -/
theorem test_wrReserved : done (busyIn 5#4) (wr (.at 0x10#8) 1#32) = some (busyIn 5#4) := by decide

/-- V-H-14. -/
theorem test_refusedAccess :
    step (machine (busyIn 5#4) [.host (.read 4 0x02#8)]) = .refused (.hostAccess (.read 4 0x02#8)) ∧
    step (machine (busyIn 5#4) [.host (.read 1 0x00#8)]) = .refused (.hostAccess (.read 1 0x00#8)) := ⟨rfl, rfl⟩

/-- V-RST-2 and V-RST-3. -/
theorem test_reset :
    (after { machine { busyIn 8#4 with ovr := true, cfgPin := 7#8, lineDir := .out } [.rst] with
      diag := [{ attempt := 1#8, outcome := .busyLine }] }).map (fun t => (t.eng, t.diag.map Diag.word, t.issued)) =
      some (Engine.reset {}, [0x012#12], [.setDir 7#8 .inPD]) := by decide

/-! ### The placed word runs as the first instruction after reset -/

theorem test_placed_word :
    (after (State.reset.withFetchWord 8 0x9)).map (·.eng.attOut) = some .checksumMismatch ∧
    (after (State.reset.withFetchWord 48 0x000005010100)).map (·.eng.statusWord) = some 0x00000011#32 := by decide

/-! ### Witnesses: a concrete case that meets the hypotheses of each statement -/

/-- An engine polling in ACK_WAIT_LOW, in its first attempt. -/
def waiting : Engine := { busyIn 5#4 with attempt := 1#8, idleCount := 10#4, tMark := 5000 }

/-- An engine at the end of its only attempt. -/
def ending (o : OutCode) : Engine := { busyIn 10#4 with attempt := 1#8, cfgMaxRetries := 1#8, attOut := o }

/-- An idle engine whose last START was refused for zero retries. -/
def refusedStart : Engine := { Engine.reset {} with result := .configInvalid, done := true, cfgMaxRetries := 0#8 }

/-- An idle engine with a result of SUCCESS at the upper bounds of the reading. -/
def succeeded : Engine :=
  { Engine.reset {} with result := .success, done := true, valid := true, attempt := 1#8, readingHum := 1000#16
                         readingTemp := 800#16 }

/-- An engine about to capture bit 0. -/
def capturing : Engine := { busyIn 7#4 with attempt := 1#8, idleCount := 10#4 }

theorem defaults_ok (e : Engine) (evs : List Event) : (machine e evs).par.ok = true := by
  change Params.ok {} = true
  decide

/-- The invariant does not look at the events to come. -/
theorem inv_of_engine {e : Engine} (h : (machine e []).Inv) (evs : List Event) : (machine e evs).Inv :=
  ⟨h.flags, h.counters, h.outcome, h.line, h.diag, h.frame⟩

theorem waiting_inv : (machine waiting []).Inv :=
  ⟨by constructor <;> decide, by constructor <;> decide, by constructor <;> decide, by constructor <;> decide,
   by unfold DiagInv; decide, by unfold FrameInv; decide⟩

theorem ending_inv : (machine (ending .timeout) []).Inv :=
  ⟨by constructor <;> decide, by constructor <;> decide, by constructor <;> decide, by constructor <;> decide,
   by unfold DiagInv; decide, by unfold FrameInv; decide⟩

theorem ending_success_inv : (machine (ending .success) []).Inv :=
  ⟨by constructor <;> decide, by constructor <;> decide, by constructor <;> decide, by constructor <;> decide,
   by unfold DiagInv; decide, by unfold FrameInv; decide⟩

theorem refusedStart_inv : (machine refusedStart []).Inv :=
  ⟨by constructor <;> decide, by constructor <;> decide, by constructor <;> decide, by constructor <;> decide,
   by unfold DiagInv; decide, by unfold FrameInv; decide⟩

theorem succeeded_inv : (machine succeeded []).Inv :=
  ⟨by constructor <;> decide, by constructor <;> decide, by constructor <;> decide, by constructor <;> decide,
   by unfold DiagInv; decide, by unfold FrameInv; decide⟩

theorem witness_DecodeOfEncodeIsTheInstruction :
    (Instr.wrReserved 0x0C#8 1#32).wf = true ∧ (Instr.start 0x00000501#32).wf = true ∧
    (Instr.refusedAccess (.write 2 0xFF#8 9#32)).wf = true := by decide

theorem witness_EncodeOfDecodeIsTheCode :
    decode (.port 4 0x000#9 5#32) = .ok .rdCtrl ∧ decode (.phase 10#4) = .ok .attemptEnd := by decide

theorem witness_ReservedPhasesAreStuckAndNeverWritten :
    (∀ c ∈ [11#4, 15#4], ∃ (s : State) (d : Draw) (rest : List Event), s.par.ok = true ∧ s.pending = .engine d :: rest ∧ s.eng.phase = c ∧ 11 ≤ c.toNat) ∧
    (∃ s s' : State, s.eng.phase.toNat = 10 ∧ step s = .next s') := by
  refine ⟨fun c h => ?_, machine (ending .timeout) [answers .low 0 false], _, by decide, rfl⟩
  have hc : 11 ≤ c.toNat := by
    revert h c
    decide
  exact ⟨machine (busyIn c) [answers .low 0 false], _, _, defaults_ok _ _, rfl, rfl, hc⟩

theorem witness_ResetOperationRestoresEveryElement :
    ∃ (s : State) (rest : List Event), s.par.ok = true ∧ s.pending = .rst :: rest ∧ s.par.defaultMaxRetries = 5 :=
  ⟨machine (busyIn 8#4) [.rst], [], defaults_ok _ _, rfl, rfl⟩

theorem witness_ReachableStatesKeepTheListedInvariants :
    ∃ (p : Params) (evs : List Event) (n : Nat) (s : State),
      Sys2Proof.core.run n { State.reset with par := p, eng := Engine.reset p, pending := evs } = .next s ∧
      s.eng.busy = true ∧ s.eng.phase = Phase.idleCheck :=
  ⟨{}, [wr .ctrl 0x00000101#32, answers .low 0 false], 2, _, rfl, rfl, rfl⟩

/-- One configuration for each constraint that a configuration can break, on both sides. -/
theorem witness_BadConfigurationsAreRefused :
    ∀ p ∈ ([{ nIdleSamples := 0 }, { nIdleSamples := 16 }, { bitThresholdUs := 0 },
        { bitThresholdUs := 4294967296, waitTimeoutUs := none }, { waitTimeoutUs := some 40 },
        { waitTimeoutUs := some 4294967296 }, { defaultMaxRetries := 0 }, { defaultMaxRetries := 256 },
        { tsBits := 7, waitTimeoutUs := none }] : List Params), p.ok = false := by decide

theorem witness_StepRunsTheDecodedInstruction :
    (machine waiting []).par.ok = true ∧ (machine waiting []).pending = [] ∧
    (∃ d i, (machine waiting [answers .high 0 false]).pending = .engine d :: [] ∧
      decode (.phase waiting.phase) = .ok i) ∧
    (∃ a i, (machine waiting [rd .status]).pending = .host a :: [] ∧ decode (codeOfAccess a) = .ok i) ∧
    (machine waiting [.rst]).pending = .rst :: [] := by
  exact ⟨by decide, rfl, ⟨_, .ackWaitLow, rfl, by decide⟩, ⟨_, .rdStatus, rfl, by decide⟩, rfl⟩

theorem witness_PlacedTableWordIsTheNextInstruction :
    State.reset.par.ok = true ∧ decodeTableWord 48 0xFFFF00000110 = some (.wrReserved 0x10#8 0xFFFF0000#32) := by decide

theorem witness_OtherHostAccessesAreRefused :
    (Access.read 0 0x00#8).width ≠ 4 ∧ (Access.write 8 0x00#8 1#32).width ≠ 4 ∧
    (Access.read 4 0x01#8).off.toNat % 4 ≠ 0 ∧ (Access.read 4 0xFF#8).off.toNat % 4 ≠ 0 ∧
    ∃ (s : State) (a : Access) (rest : List Event), s.par.ok = true ∧ s.pending = Event.host a :: rest ∧ a.width = 1 := by
  exact ⟨by decide, by decide, by decide, by decide,
    machine waiting [.host (.read 1 0x00#8)], _, [], by decide, rfl, rfl⟩

theorem witness_AlignedWordAccessesAlwaysComplete :
    ∀ off ∈ [0x00#8, 0xFC#8], ∃ (s : State) (a : Access), s.par.ok = true ∧ s.pending = Event.host a :: [] ∧ a.width = 4 ∧
      a.off = off ∧ off.toNat % 4 = 0 := by
  intro off h
  refine ⟨machine waiting [.host (.write 4 off 1#32)], _, defaults_ok _ _, rfl, rfl, rfl, ?_⟩
  revert h off
  decide

theorem witness_EveryStepKeepsTheStateGood : ∃ s s' : State, s.Inv ∧ step s = .next s' ∧ s'.eng.phase ≠ s.eng.phase :=
  ⟨machine waiting [answers .low 5030 false], _, inv_of_engine waiting_inv _, rfl, by decide⟩

theorem witness_GoodStatesAreNeverStuck :
    ∃ (s : State) (e : Event) (rest : List Event), s.Inv ∧ s.par.ok = true ∧ s.pending = e :: rest ∧ e.legal = true :=
  ⟨machine waiting [answers .high 7000 true], _, _, inv_of_engine waiting_inv _, by decide, rfl, rfl⟩

/-- Both clauses: a failed attempt's end with the first and the last of the five outcomes, and a successful one. -/
theorem witness_OneDiagEventPerFailedAttempt :
    (∀ o ∈ [OutCode.busyLine, .timeout], ∃ t, exec .attemptEnd (machine (ending o) []) = .next t ∧
      (ending o).attOut.isFailure = true) ∧
    (∃ t, exec .attemptEnd (machine (ending .success) []) = .next t ∧ (ending .success).attOut = .success) := by
  refine ⟨fun o h => ?_, _, rfl, rfl⟩
  simp only [List.mem_cons, List.not_mem_nil, or_false] at h
  rcases h with rfl | rfl
  · exact ⟨_, rfl, rfl⟩
  · exact ⟨_, rfl, rfl⟩

theorem witness_ParametersStayAndDiagOnlyGrows :
    ∃ s', step (machine (ending .timeout) [answers .low 0 false]) = .next s' ∧ s'.diag ≠ [] := ⟨_, rfl, by decide⟩

/-- Both clauses, at the highest attempt count the statement covers. -/
theorem witness_AttemptInitBeginsAFreshAttempt :
    ∀ err, ∃ s : State, s.eng.attempt.toNat < 255 ∧ s.eng.attempt.toNat = 254 ∧ s.draw.err = err := by
  intro err
  exact ⟨{ machine { busyIn 1#4 with attempt := 254#8, cfgMaxRetries := 255#8 } [] with draw := ⟨.low, 0, err⟩ },
    of_decide_eq_true rfl, rfl, rfl⟩

/-- The four clauses; the two counting ones at their boundary. -/
theorem witness_IdleCheckTakesOneSample :
    ∀ c ∈ [(0#4, Level.high, true), (0#4, .low, false), (9#4, .high, false), (8#4, .high, false), (14#4, .high, false)],
      ∃ s : State, s.eng.idleCount = c.1 ∧ s.draw.lv = c.2.1 ∧ s.draw.err = c.2.2 ∧ s.eng.idleCount.toNat < 15 := by
  intro c h
  refine ⟨{ machine { busyIn 2#4 with idleCount := c.1 } [] with draw := ⟨c.2.1, 0, c.2.2⟩ }, rfl, rfl, rfl, ?_⟩
  revert h c
  decide

theorem witness_StartLowDrivesTheLineLow : ∀ err, ∃ s : State, s.draw.err = err :=
  fun err => ⟨{ machine (busyIn 3#4) [] with draw := ⟨.low, 0, err⟩ }, rfl⟩

theorem witness_StartHighReleasesTheLine : ∀ err, ∃ s : State, s.draw.err = err :=
  fun err => ⟨{ machine (busyIn 4#4) [] with draw := ⟨.low, 0, err⟩ }, rfl⟩

theorem witness_ElapsedTimeAbsorbsOneWrap : (0 : Nat) < 2 ^ 32 ∧ (4294967295 : Nat) < 2 ^ 32 := by decide

/-- The four clauses of a wait, the two bounded ones at their boundary (V-W-3, V-W-4). -/
theorem witness_SimpleWaitsPollOnce :
    (∃ s : State, s.draw.err = true) ∧
    (∃ s : State, s.draw.err = false ∧ s.draw.lv ≠ .high) ∧
    (∃ s : State, s.draw.err = false ∧ s.draw.lv = .high ∧ s.par.waitTimeoutUs = some 1000 ∧
      elapsed 32 (s.draw.t % 2 ^ 32) s.eng.tMark = 1000) ∧
    (∃ s : State, s.draw.err = false ∧ s.draw.lv = .high ∧ s.par.waitTimeoutUs = some 1000 ∧
      elapsed 32 (s.draw.t % 2 ^ 32) s.eng.tMark = 999) :=
  ⟨⟨{ machine waiting [] with draw := ⟨.low, 110, true⟩ }, rfl⟩,
   ⟨{ machine waiting [] with draw := ⟨.low, 5030, false⟩ }, rfl, by decide⟩,
   ⟨{ machine waiting [] with draw := ⟨.high, 6000, false⟩ }, rfl, rfl, rfl, by decide⟩,
   ⟨{ machine waiting [] with draw := ⟨.high, 5999, false⟩ }, rfl, rfl, rfl, by decide⟩⟩

/-- The edge clause at the first and the last bit and on both sides of the threshold; the other clauses are those of
the common wait above. -/
theorem witness_BitWaitHighCapturesOneBit :
    ∀ c ∈ [(0#6, 39), (0#6, 40), (39#6, 39), (39#6, 40)], ∃ s : State, s.draw.err = false ∧ s.draw.lv = .low ∧
      s.eng.bitCount = c.1 ∧ s.eng.bitCount.toNat < 40 ∧
      elapsed 32 (s.draw.t % 2 ^ 32) s.eng.tMark = c.2 ∧ s.par.bitThresholdUs = 40 := by
  intro c h
  refine ⟨{ machine { busyIn 8#4 with bitCount := c.1 } [] with draw := ⟨.low, c.2, false⟩ }, rfl, rfl, rfl, ?_⟩
  revert h c
  decide

theorem witness_NoFrameBitBeyondForty :
    ∀ k ∈ [40#6, 63#6], ∃ s : State, s.draw.err = false ∧ s.draw.lv = .low ∧ s.eng.bitCount = k ∧
      40 ≤ s.eng.bitCount.toNat := by
  intro k h
  refine ⟨{ machine { busyIn 8#4 with bitCount := k } [] with draw := ⟨.low, 0, false⟩ }, rfl, rfl, rfl, ?_⟩
  revert h k
  decide

theorem witness_PulseWidthDecidesOneFrameBit :
    ∃ (s t : State) (k : Fin 40), s.draw.err = false ∧ s.draw.lv = .low ∧ s.eng.bitCount.toNat = k.val ∧
      exec .bitWaitHigh s = .next t ∧ t.eng.frame.bit k = false :=
  ⟨{ machine { busyIn 8#4 with bitCount := 39#6 } [] with draw := ⟨.low, 39, false⟩ }, _, 39, rfl, rfl, rfl, rfl,
    by decide⟩

/-- At the highest attempt count ATTEMPT_INIT's clause covers. -/
theorem witness_LineErrorsAbortPrecisely : ∃ s : State, s.draw.err = true ∧ s.eng.attempt.toNat = 254 :=
  ⟨{ machine { waiting with attempt := 254#8 } [] with draw := ⟨.low, 110, true⟩ }, rfl, rfl⟩

/-- The four clauses: an engine step, a START with the smallest retry count, and a member of a set of each kind. -/
theorem witness_PhasesFollowTheSuccessorSets :
    (∃ s t : State, s.eng.phase ≠ Phase.idle ∧ decode (.phase s.eng.phase) = .ok .ackWaitLow ∧
      exec .ackWaitLow s = .next t) ∧
    (∃ (s t : State) (v : Word), s.Inv ∧ s.par.ok = true ∧ s.eng.phase = Phase.idle ∧ v.getLsbD 0 = true ∧
      v.extractLsb' 8 8 ≠ 0#8 ∧ s.pending = .host (.write 4 0x00#8 v) :: [] ∧ step s = .next t) ∧
    (Phase.bitWaitHigh ≠ Phase.idle ∧ Phase.validate ∈ successors Phase.bitWaitHigh) ∧
    Phase.attemptInit ∈ successors Phase.idle :=
  ⟨⟨{ machine waiting [] with draw := ⟨.low, 5030, false⟩ }, _, by decide, by decide, rfl⟩,
   ⟨machine refusedStart [wr .ctrl 0x00000101#32], _, 0x00000101#32, inv_of_engine refusedStart_inv _, by decide, rfl,
    by decide, by decide, rfl, rfl⟩, by decide, by decide⟩

/-- Both ends of the range: no sample, and the full count. -/
theorem witness_IdleCheckTakesExactlyTheSampleCount :
    ∀ n ∈ [0, 9, 10], ∃ (s : State) (ts : List Nat), ts.length = n ∧ s.par.ok = true ∧ s.eng.phase = Phase.idleCheck ∧
      s.eng.idleCount = 0#4 ∧ s.pending = ts.map (fun t => answers .high t false) ++ [] ∧
      ts.length ≤ s.par.nIdleSamples := by
  intro n h
  refine ⟨machine (busyIn 2#4) ((List.replicate n 0).map (fun t => answers .high t false)), List.replicate n 0,
    by simp, defaults_ok _ _, rfl, rfl, by simp [machine], ?_⟩
  revert h n
  decide

theorem witness_BaselineWaitsPollForever :
    ∃ (s : State) (ts : List Nat), s.par.ok = true ∧ s.par.waitTimeoutUs = none ∧ s.eng.phase = Phase.ackWaitLow ∧
      s.pending = ts.map (fun t => answers .high t false) ++ [] ∧ ts ≠ [] :=
  ⟨{ machine waiting [answers .high 4000000000 false] with par := { waitTimeoutUs := none } }, [4000000000],
    by decide, rfl, rfl, rfl, by decide⟩

theorem witness_BoundedWaitsEndUnderFairness :
    ∃ (s : State) (ds : List Draw), s.Inv ∧ s.par.ok = true ∧ s.par.waitTimeoutUs = some 1000 ∧
      s.eng.phase = Phase.ackWaitLow ∧ s.pending = ds.map Event.engine ++ [] ∧
      ∃ d ∈ ds, 1000 ≤ elapsed s.par.tsBits (d.t % 2 ^ s.par.tsBits) s.eng.tMark :=
  ⟨machine waiting [answers .high 5999 false, answers .high 6000 false], [⟨.high, 5999, false⟩, ⟨.high, 6000, false⟩],
    inv_of_engine waiting_inv _, by decide, rfl, rfl, rfl, ⟨.high, 6000, false⟩, by decide, by decide⟩

theorem witness_CapturedFrameHoldsThePulseWidths :
    ∃ (s : State) (rise fall : Fin 40 → Nat), s.par.ok = true ∧ s.eng.phase = Phase.bitWaitLow ∧
      s.eng.bitCount = 0#6 ∧ s.eng.frame = Frame.fresh ∧
      s.pending =
        (List.finRange 40).flatMap (fun k => [answers .high (rise k) false, answers .low (fall k) false]) ++ [] :=
  ⟨machine capturing ((List.finRange 40).flatMap
      (fun k => [answers .high (100 * k.val) false, answers .low (100 * k.val + 27) false])),
    fun k => 100 * k.val, fun k => 100 * k.val + 27, by decide, rfl, rfl, rfl, by simp [machine]⟩

theorem witness_EveryFrameCanBeCaptured :
    ∃ (s : State) (d : Draw), s.par = {} ∧ s.eng.phase = Phase.bitWaitLow ∧ s.eng.bitCount = 0#6 ∧
      s.eng.frame = Frame.fresh ∧ s.pending = frameLines (frameOf 0x32 0x00 0x18 0x00 0x4A) 20200 ++ .engine d :: [] :=
  ⟨machine capturing (frameLines (frameOf 0x32 0x00 0x18 0x00 0x4A) 20200 ++ [answers .low 0 false]), _, rfl, rfl, rfl,
    rfl, rfl⟩

/-- The three clauses, at the bounds of the ranges (V-VAL-3 to V-VAL-6). -/
theorem witness_ValidateGivesTheVerdict :
    (0xFF + 0xFF + 0xFF + 0xFF) % 256 ≠ 0xFF ∧
    ((0x64 + 0x01 + 0x50 + 0x00) % 256 = 0xB5 ∧ ¬ (10 * 0x64 + 0x01 ≤ 1000 ∧ 10 * 0x50 + 0x00 ≤ 800)) ∧
    ((0x64 + 0x00 + 0x50 + 0x00) % 256 = 0xB4 ∧ 10 * 0x64 + 0x00 ≤ 1000 ∧ 10 * 0x50 + 0x00 ≤ 800) := by decide

theorem witness_ChecksumRoundTrips :
    ∃ s : State, s.eng.frame = { b0 := 0xFF, b1 := 0xFF, b2 := 0xFF, b3 := 0xFF
                                 b4 := BitVec.ofNat 8 ((255 + 255 + 255 + 255) % 256) } :=
  ⟨machine { busyIn 9#4 with frame := frameOf 0xFF 0xFF 0xFF 0xFF 0xFC } [], rfl⟩

theorem witness_TenthsGiveTheRationalVerdict :
    ∃ s t : State, s.eng.frame.checksum = s.eng.frame.b4.toNat ∧ exec .validate s = .next t ∧
      t.eng.attOut = .success :=
  ⟨machine { busyIn 9#4 with frame := frameOf 0x64 0x00 0x50 0x00 0xB4 } [], _, by decide, rfl, by decide⟩

theorem witness_IdleIsQuiescent :
    ∃ (s : State) (d : Draw), s.par.ok = true ∧ s.eng.phase = Phase.idle ∧ s.pending = .engine d :: [] :=
  ⟨machine refusedStart [answers .high 7 true], _, by decide, rfl, rfl⟩

/-- The three clauses; the two on the budget at the budget and one below it. -/
theorem witness_AttemptEndConsumesTheOutcome :
    (ending .success).attOut = .success ∧
    ((ending .timeout).attOut.isFailure = true ∧ (ending .timeout).cfgMaxRetries.toNat ≤ (ending .timeout).attempt.toNat) ∧
    (OutCode.isFailure .busyLine = true ∧
      { ending .busyLine with cfgMaxRetries := 2#8 }.attempt.toNat < (2#8).toNat) := by decide

/-- A transaction that goes on, one that ends in success and one that runs out of attempts. -/
theorem witness_TransactionsCountTheirAttempts :
    ∀ c : Bool × OutCode × BitVec 4, c ∈ [(true, OutCode.none, 6#4), (false, .success, 0#4), (false, .timeout, 0#4)] →
      ∃ (s s' : State) (base : Nat), s.Inv ∧ s.eng.busy = true ∧ s.diag.length = base + s.eng.endedAttempts ∧
        step s = .next s' ∧ s'.eng.busy = c.1 ∧ s'.eng.attOut = c.2.1 ∧ s'.eng.phase = c.2.2 := by
  intro c h
  simp only [List.mem_cons, List.not_mem_nil, or_false] at h
  rcases h with rfl | rfl | rfl
  · exact ⟨machine waiting [answers .low 5030 false], _, 0, inv_of_engine waiting_inv _, rfl, by decide, rfl, rfl, rfl, rfl⟩
  · exact ⟨machine (ending .success) [answers .low 0 false], _, 0, inv_of_engine ending_success_inv _, rfl, by decide, rfl,
      rfl, rfl, rfl⟩
  · exact ⟨machine (ending .timeout) [answers .low 0 false], _, 0, inv_of_engine ending_inv _, rfl, by decide, rfl, rfl, rfl,
      rfl⟩

/-- What an attempt that failed early leaves, and what one that failed late leaves, as the second attempt begins. -/
def leftByBusyLine : Engine :=
  { busyIn 1#4 with attempt := 1#8, lastFail := .busyLine, attOut := .busyLine, idleCount := 2#4 }

def leftByTimeout : Engine :=
  { busyIn 1#4 with attempt := 1#8, lastFail := .timeout, attOut := .timeout, idleCount := 10#4, bitCount := 7#6
                    frame := frameOf 0 0xFF 0xFF 0xFF 0xFF, tMark := 9, lineDir := .out, lineDrv := .high }

/-- Both clauses, the second in ATTEMPT_INIT and in a later phase. -/
theorem witness_AttemptsAreIndependent :
    (∃ s s' t t' : State, s.draw.err = s'.draw.err ∧ s.eng ≠ s'.eng ∧
      { s.eng with frame := Frame.fresh, bitCount := 0#6, idleCount := 0#4, attOut := .none, tMark := 0,
                   lastFail := .none, lineDir := .inPD, lineDrv := .low, phase := 0#4 } =
      { s'.eng with frame := Frame.fresh, bitCount := 0#6, idleCount := 0#4, attOut := .none, tMark := 0,
                    lastFail := .none, lineDir := .inPD, lineDrv := .low, phase := 0#4 } ∧
      exec .attemptInit s = .next t ∧ exec .attemptInit s' = .next t') ∧
    (∀ p ∈ [1#4, 4#4], ∃ (s s' t : State) (d : Draw), s.pending = Event.engine d :: [] ∧
      s'.pending = .engine d :: [] ∧ s.par = s'.par ∧ s.eng.phase = p ∧ s.eng ≠ s'.eng ∧
      s.eng.attemptView = s'.eng.attemptView ∧ step s = .next t) := by
  refine ⟨⟨machine leftByBusyLine [], machine leftByTimeout [], _, _, rfl, by decide, rfl, rfl, rfl⟩, fun p h => ?_⟩
  simp only [List.mem_cons, List.not_mem_nil, or_false] at h
  rcases h with rfl | rfl
  · exact ⟨machine leftByBusyLine [answers .high 7 false], machine leftByTimeout [answers .high 7 false], _, _, rfl, rfl,
      rfl, rfl, by decide, by decide, rfl⟩
  · exact ⟨machine (busyIn 4#4) [answers .high 7 false],
      machine { busyIn 4#4 with tMark := 9, lastFail := .timeout } [answers .high 7 false], _, _, rfl, rfl, rfl, rfl,
      by decide, by decide, rfl⟩

theorem witness_PhaseOperationsKeepTheirFrame :
    Instr.format .idleCheck = .phase4 ∧ ∃ t, exec .idleCheck (machine (busyIn 2#4) []) = .next t := ⟨rfl, _, rfl⟩

theorem witness_OvrAndPinDoNotSteerTheEngine :
    ∃ (s s' t : State), s.eng.sameButOvrPin s'.eng ∧ s.eng ≠ s'.eng ∧ s.draw = s'.draw ∧ s.par = s'.par ∧
      s.diag = s'.diag ∧ exec .ackWaitLow s = .next t :=
  ⟨machine waiting [], machine { waiting with ovr := true, cfgPin := 7#8 } [], _, rfl, by decide, rfl, rfl, rfl, rfl⟩

theorem witness_LevelsAreWrittenAsOutputAndReadAsInput : ∃ s s' : State, s.Inv ∧ step s = .next s' ∧ s'.issued ≠ [] :=
  ⟨machine waiting [answers .low 5030 false], _, inv_of_engine waiting_inv _, rfl, by decide⟩

theorem witness_EveryLineOperationCarriesThePin :
    ∃ s s' : State, step s = .next s' ∧ ∃ p ∈ s'.issued, p.pin = some 7#8 :=
  ⟨machine { busyIn 3#4 with cfgPin := 7#8 } [answers .low 0 false], _, rfl, .setDir 7#8 .out, by decide, rfl⟩

/-- Both clauses, where the direction would change. -/
theorem witness_LineDirectionMirrorsWhatWasIssued :
    ∀ err, ∃ (s s' : State) (d : Draw), s.pending = Event.engine d :: [] ∧ step s = .next s' ∧ d.err = err := by
  intro err
  cases err
  · exact ⟨machine (busyIn 3#4) [answers .low 0 false], _, _, rfl, rfl, rfl⟩
  · exact ⟨machine (busyIn 3#4) [answers .low 0 true], _, _, rfl, rfl, rfl⟩

theorem witness_IdleEngineLeavesTheLineAlone :
    ∃ (s s' : State) (e : Event), s.Inv ∧ s.eng.busy = false ∧ s.pending = e :: [] ∧ e ≠ .rst ∧ step s = .next s' :=
  ⟨machine refusedStart [wr .ctrl 0x00000301#32], _, _, inv_of_engine refusedStart_inv _, rfl, rfl, by decide, rfl⟩

theorem witness_WriteCtrlStoresTheConfiguration :
    (Engine.reset {}).busy = false ∧ (0x00030300#32).getLsbD 0 = false := by decide

theorem witness_CtrlWritesWhileBusyAreDropped :
    waiting.busy = true ∧ (0x00000501#32).getLsbD 0 = true ∧ (0x00070700#32).getLsbD 0 = false := by decide

theorem witness_StartWithZeroRetriesIsRefused :
    (Engine.reset {}).busy = false ∧ (0x00000001#32).getLsbD 0 = true ∧ (0x00000001#32).extractLsb' 8 8 = 0#8 := by decide

/-- The smallest and the largest retry count. -/
theorem witness_StartBeginsATransaction :
    (Engine.reset {}).busy = false ∧
    ((0x00000101#32).getLsbD 0 = true ∧ 1 ≤ ((0x00000101#32).extractLsb' 8 8).toNat) ∧
    ((0x0000FF01#32).getLsbD 0 = true ∧ 1 ≤ ((0x0000FF01#32).extractLsb' 8 8).toNat) := by decide

theorem witness_WriteStatusClearsOvr :
    (0x00000008#32).getLsbD 3 = true ∧ (0xFFFFFFF7#32).getLsbD 3 = false := by decide

theorem witness_ReadReadingReturnsOnlyValidReadings : succeeded.valid = true ∧ waiting.valid = false := by decide

theorem witness_ReservedAndReadOnlyAccessesHaveNoEffect :
    ∀ off ∈ [0x0C#8, 0xFC#8], off.toNat % 4 = 0 ∧ 0x0C ≤ off.toNat := by decide

theorem witness_HostCannotDisturbARunningTransaction :
    ∃ (s s' : State) (a : Access), s.eng.busy = true ∧ s.pending = Event.host a :: [] ∧ step s = .next s' ∧ s'.eng ≠ s.eng :=
  ⟨machine waiting [wr .ctrl 0x00000501#32], _, _, rfl, rfl, rfl, by decide⟩

theorem witness_ResultsStandUntilTheNextStart :
    ∃ (s s' : State) (e : Event), s.Inv ∧ s.eng.busy = false ∧ s.pending = e :: [] ∧ e ≠ .rst ∧
      (∀ v : Word, v.getLsbD 0 = true → e ≠ .host (.write 4 0x00#8 v)) ∧ step s = .next s' := by
  refine ⟨machine succeeded [wr .ctrl 0x00070700#32], _, _, inv_of_engine succeeded_inv _, rfl, rfl, by decide, ?_, rfl⟩
  intro v hv he
  cases he
  exact absurd hv (by decide)

/-- Both clauses: DONE rises at the end of an attempt, and falls at an accepted START. -/
theorem witness_DoneOutputFollowsTheTransaction :
    (∃ (s s' : State) (e : Event), s.Inv ∧ s.pending = e :: [] ∧ step s = .next s' ∧ s.doneO = false ∧ s'.doneO = true) ∧
    (∃ (s s' : State) (e : Event), s.Inv ∧ s.pending = e :: [] ∧ step s = .next s' ∧ s.doneO = true ∧ s'.doneO = false) :=
  ⟨⟨machine (ending .timeout) [answers .low 0 false], _, _, inv_of_engine ending_inv _, rfl, rfl, rfl, rfl⟩,
   ⟨machine refusedStart [wr .ctrl 0x00000301#32], _, _, inv_of_engine refusedStart_inv _, rfl, rfl, rfl, rfl⟩⟩

/-- An idle engine whose only attempt failed. -/
def exhausted : Engine :=
  { Engine.reset {} with result := .exhaustedRetries, done := true, lastFail := .timeout, attempt := 1#8
                         cfgMaxRetries := 1#8 }

theorem exhausted_inv : (machine exhausted []).Inv :=
  ⟨by constructor <;> decide, by constructor <;> decide, by constructor <;> decide, by constructor <;> decide,
   by unfold DiagInv; decide, by unfold FrameInv; decide⟩

/-- The three ways a transaction ends. -/
theorem witness_SensorResultReadsTheTransaction :
    (∃ s : State, s.Inv ∧ s.eng.done = true ∧ s.eng.result = .success ∧
      sensorResult s.eng.statusWord s.eng.readingWord = some (.ok 1000 800)) ∧
    (∃ s : State, s.Inv ∧ s.eng.done = true ∧ s.eng.result = .exhaustedRetries) ∧
    (∃ s : State, s.Inv ∧ s.eng.done = true ∧ s.eng.result = .configInvalid) :=
  ⟨⟨machine succeeded [], succeeded_inv, rfl, rfl, by decide⟩, ⟨machine exhausted [], exhausted_inv, rfl, rfl⟩, ⟨machine refusedStart [], refusedStart_inv, rfl, rfl⟩⟩

/-- A line that rests High, a time base that advances, and no sensor. -/
def silent : Surroundings :=
  { level := fun _ => .high, time := fun n => 1000 * n, ready := fun b => b == 0#8, fails := fun _ => false
    sensor := fun _ => false, other := fun _ => false }

theorem silent_premises : LaunchPremises {} 0#8 silent where
  time_base := by
    intro w hw n _
    cases hw
    refine ⟨n + 1, Nat.lt_succ_self n, .inr ?_⟩
    have h : (1000 * (n + 1)) % 2 ^ 32 = ((1000 * n) % 2 ^ 32 + 1000) % 2 ^ 32 := by omega
    change 1000 ≤ elapsed 32 ((1000 * (n + 1)) % 2 ^ 32) ((1000 * n) % 2 ^ 32)
    unfold elapsed
    rw [h]
    push_cast
    omega
  line_ready := rfl
  idle_high := fun _ _ _ => rfl
  sole_driver := fun _ => rfl

/-- The four clauses: an attempt's beginning and a wait under the premises, a line that rests Low, and a pin that the
interface does not know. -/
theorem witness_LaunchPremisesCarryAnAttempt :
    (LaunchPremises {} 0#8 silent ∧ ∃ s : State, s.par = {} ∧ s.eng.cfgPin = 0#8 ∧ s.eng.phase = Phase.attemptInit ∧
      s.pending = silent.events 0#8 3 11 ++ [] ∧ ∀ k, silent.fails k = false ∧ silent.sensor k = false) ∧
    (∃ s : State, s.Inv ∧ s.par = {} ∧ s.eng.cfgPin = 0#8 ∧ s.eng.phase = Phase.ackWaitLow ∧
      s.eng.tMark = silent.time 5 % 2 ^ 32 ∧ s.pending = silent.events 0#8 6 2 ++ []) ∧
    (∃ (x : Surroundings) (s : State), x.ready 0#8 = true ∧ (∀ k, x.level k = .low) ∧
      (∀ k, x.fails k = false ∧ x.sensor k = false ∧ x.other k = false) ∧ s.par = {} ∧ s.eng.cfgPin = 0#8 ∧
      s.eng.phase = Phase.attemptInit ∧ s.pending = x.events 0#8 0 2 ++ []) ∧
    (∃ s : State, silent.ready 7#8 = false ∧ s.par = {} ∧ s.eng.cfgPin = 7#8 ∧ s.eng.phase = Phase.attemptInit ∧
      s.pending = silent.events 7#8 0 1 ++ []) :=
  ⟨⟨silent_premises, machine (busyIn 1#4) (silent.events 0#8 3 11), rfl, rfl, rfl, by simp [machine],
    fun _ => ⟨rfl, rfl⟩⟩,
   ⟨machine waiting (silent.events 0#8 6 2), inv_of_engine waiting_inv _, rfl, rfl, rfl, rfl, by simp [machine]⟩,
   ⟨{ silent with level := fun _ => .low }, machine (busyIn 1#4) (Surroundings.events _ 0#8 0 2), rfl, fun _ => rfl,
    fun _ => ⟨rfl, rfl, rfl⟩, rfl, rfl, rfl, (List.append_nil _).symm⟩,
   machine { busyIn 1#4 with cfgPin := 7#8 } (silent.events 7#8 0 1), rfl, rfl, rfl, rfl, (List.append_nil _).symm⟩

end Sys2Proof.Tests
end

section
/-! The scope rules: which configurations have a meaning (00_scope.md R10), and which operation a step runs
(20_memory.md R64). -/

namespace Sys2Proof

variable {p : Params}

/-- The bound fails only when there is one and it lies outside its interval; `NONE` always passes. -/
theorem Params.timeoutOk_eq_false : p.timeoutOk = false ↔
    ∃ w, p.waitTimeoutUs = some w ∧ ¬ (p.bitThresholdUs < w ∧ w < 2 ^ p.tsBits) := by
  unfold Params.timeoutOk
  cases p.waitTimeoutUs with
  | none => simp
  | some w => simp

/-- The constraints of R10, each negated. -/
theorem Params.ok_eq_false : p.ok = false ↔
    (p.nIdleSamples < 1 ∨ 15 < p.nIdleSamples ∨ p.bitThresholdUs < 1 ∨ 2 ^ p.tsBits - 1 < p.bitThresholdUs ∨
     (∃ w, p.waitTimeoutUs = some w ∧ ¬ (p.bitThresholdUs < w ∧ w < 2 ^ p.tsBits)) ∨
     p.defaultMaxRetries < 1 ∨ 255 < p.defaultMaxRetries ∨ p.tsBits < 8) := by
  have threshold_max : 2 ^ p.tsBits - 1 < p.bitThresholdUs ↔ 2 ^ p.tsBits ≤ p.bitThresholdUs := by
    have hpos : 0 < 2 ^ p.tsBits := by positivity
    omega
  rw [← Params.timeoutOk_eq_false, threshold_max]
  simp only [Params.ok, Bool.and_eq_false_iff, decide_eq_false_iff_not, not_le, not_lt, or_assoc]

end Sys2Proof

namespace Sys2Proof.Machine

variable {s t : State}

/-- A step depends on the state through the next event and the order left after it alone. -/
theorem step_eq_of_nextEvent_eq (h : s.nextEvent = t.nextEvent) : step s = step t := by
  have heng : s.eng = t.eng := by rw [← s.nextEvent_eng, h, t.nextEvent_eng]
  have hpar : s.par = t.par := by rw [← s.nextEvent_par, h, t.nextEvent_par]
  have hcode : fetchCode t.nextEvent.1 s = fetchCode t.nextEvent.1 t := by
    cases t.nextEvent.1 <;> simp only [fetchCode, heng]
  unfold step
  rw [h, hpar, hcode]

/-- Drawing the free event is the same as finding it recorded. -/
theorem nextEvent_record_free (hp : s.pending = []) :
    State.nextEvent { s with pending := [Config.freeEvent s.freeCount], freeCount := s.freeCount + 1 } =
      s.nextEvent := by
  rw [State.nextEvent_cons _ _ _ rfl, s.nextEvent_nil hp, ← hp]

/-- The step of a recorded event runs the operation that the event's code decodes to. -/
theorem step_of_pending_cons {e : Event} {rest : List Event} {i : Instr} (hok : s.par.ok = true)
    (hp : s.pending = e :: rest) (hd : decode (fetchCode e s) = .ok i) :
    step s = exec i (State.begin { s with pending := rest } e) := by
  have hn := s.nextEvent_cons e rest hp
  rw [step_ok hok (i := i) (by rw [hn]; exact hd), hn]

/-- Settles O7: `step` tests the configuration first, and the test is the conjunction of R10's constraints. -/
theorem badConfigurationsAreRefused : Obligations.BadConfigurationsAreRefused :=
  ⟨fun _ hbad => step_bad_configuration hbad, fun _ => Params.ok_eq_false⟩

/-- Settles O8: an unrecorded event is the free one, and a recorded one runs what its code decodes to. -/
theorem stepRunsTheDecodedInstruction : Obligations.StepRunsTheDecodedInstruction := by
  refine ⟨fun s hp => (step_eq_of_nextEvent_eq (nextEvent_record_free hp)).symm, fun s rest hok => ⟨?_, ?_, ?_⟩⟩
  · intro d i hp hd
    exact step_of_pending_cons hok hp hd
  · intro a i hp hd
    exact step_of_pending_cons hok hp hd
  · intro hp
    exact step_of_pending_cons hok hp rfl

end Sys2Proof.Machine
end

section
/-! Phase codes and phase operations: which code selects an operation (30_encoding.md R80, 10_state.md R47), what each
phase operation leaves alone (10_state.md R20 to R33), and where it leads (30_encoding.md R81). -/

namespace Sys2Proof.Machine

variable {s t : State} {i j : Instr} {b c : BitVec 4}

/-! ### Phase codes -/

/-- Every phase operation has the one code it is encoded in (30_encoding.md R80). -/
theorem decodePhase_eq_ok_iff : decodePhase c = .ok i ↔ encode i = .phase c := by
  refine ⟨fun h => (decodePhase_ok h).2, fun h => ?_⟩
  cases i
  case refusedAccess a => cases a <;> cases h
  all_goals cases h <;> rfl

theorem decodePhase_reserved (hc : 11 ≤ c.toNat) : decodePhase c = .rejected (.reservedPhase c) := by
  revert c
  decide

theorem decodePhase_legal (hc : c.toNat ≤ 10) : ∃ i, decodePhase c = .ok i := by
  have hlegal : ∀ c b : BitVec 4, c.toNat ≤ 10 → decodePhase c ≠ .rejected (.reservedPhase b) := by decide
  cases hd : decodePhase c with
  | ok i => exact ⟨i, rfl⟩
  | rejected e => exact absurd hd (hlegal c _ hc)

/-- The operation fixes the phase it runs in. -/
theorem phase_eq (hd : decodePhase c = .ok i) (hi : encode i = .phase b) : c = b := by
  rw [decodePhase_eq_ok_iff.1 hd] at hi
  cases hi
  rfl

/-- Outside the phase of an operation another one runs. -/
theorem phase_ne (hd : decodePhase c = .ok i) (hj : encode j = .phase b) (hne : i ≠ j) : c ≠ b := by
  rintro rfl
  rw [decodePhase_eq_ok_iff.2 hj] at hd
  cases hd
  exact hne rfl

theorem phase_of_waits {l : Level} (hd : decodePhase c = .ok i) (hi : (i, l) ∈ waits) :
    5 ≤ c.toNat ∧ c.toNat ≤ 8 := by
  have hc := decodePhase_eq_ok_iff.1 hd
  simp only [waits, List.mem_cons, Prod.mk.injEq, List.not_mem_nil, or_false] at hi
  rcases hi with ⟨rfl, -⟩ | ⟨rfl, -⟩ | ⟨rfl, -⟩ | ⟨rfl, -⟩ <;> cases hc <;> decide

/-! ### The frame of the phase operations -/

namespace PhaseNext

theorem keeps_context (h : PhaseNext s i t) :
    t.eng.cfgMaxRetries = s.eng.cfgMaxRetries ∧ t.eng.cfgPin = s.eng.cfgPin ∧ t.eng.ovr = s.eng.ovr ∧
      t.par = s.par ∧ t.draw = s.draw ∧ t.pending = s.pending ∧ t.freeCount = s.freeCount ∧
      t.readData = s.readData := by
  cases h <;> simp

theorem keeps_result (h : PhaseNext s i t) (hi : i ≠ .attemptEnd) :
    t.eng.busy = s.eng.busy ∧ t.eng.done = s.eng.done ∧ t.eng.valid = s.eng.valid ∧
      t.eng.result = s.eng.result ∧ t.eng.lastFail = s.eng.lastFail ∧ t.diag = s.diag := by
  cases h <;> simp at hi ⊢

theorem keeps_reading (h : PhaseNext s i t) (hi : i ≠ .validate) :
    t.eng.readingHum = s.eng.readingHum ∧ t.eng.readingTemp = s.eng.readingTemp := by
  cases h <;> simp at hi ⊢

theorem keeps_attempt (h : PhaseNext s i t) (hi : i ≠ .attemptInit) : t.eng.attempt = s.eng.attempt := by
  cases h <;> simp at hi ⊢

theorem keeps_capture (h : PhaseNext s i t) (hi : i ≠ .attemptInit) (hb : i ≠ .bitWaitHigh) :
    t.eng.frame = s.eng.frame ∧ t.eng.bitCount = s.eng.bitCount := by
  cases h <;> simp at hi hb ⊢

theorem keeps_idleCount (h : PhaseNext s i t) (hi : i ≠ .attemptInit) (hc : i ≠ .idleCheck) :
    t.eng.idleCount = s.eng.idleCount := by
  cases h <;> simp at hi hc ⊢

theorem keeps_par (h : PhaseNext s i t) : t.par = s.par := by
  obtain ⟨-, -, -, hpar, -⟩ := h.keeps_context
  exact hpar

/-- ATTEMPT_END appends to the history and the others leave it. -/
theorem diag_grows (h : PhaseNext s i t) : s.diag <+: t.diag := by
  cases h <;> simp

/-! ### The phases a phase operation leads to -/

theorem phase_legal (h : PhaseNext s i t) (hs : s.eng.phase.toNat ≤ 10) : t.eng.phase.toNat ≤ 10 := by
  cases h
  case idle | sample | pollAgain => exact hs
  case bitHigh => simp only [captureBit_eng]; split <;> decide
  all_goals simp

/-- A phase operation stays, aborts to ATTEMPT_END or goes on to the next phase, BIT_WAIT_HIGH goes back for the next
bit, and ATTEMPT_END ends the attempt. -/
theorem phase_move (h : PhaseNext s i t) (hd : decodePhase s.eng.phase = .ok i) :
    t.eng.phase = s.eng.phase ∨
    (1 ≤ s.eng.phase.toNat ∧ s.eng.phase.toNat ≤ 9 ∧
      (t.eng.phase.toNat = 10 ∨ t.eng.phase.toNat = s.eng.phase.toNat + 1)) ∨
    (s.eng.phase.toNat = 8 ∧ t.eng.phase.toNat = 7) ∨
    (s.eng.phase.toNat = 10 ∧ t.eng.phase.toNat ≤ 1) := by
  have hc := decodePhase_eq_ok_iff.1 hd
  cases h
  case pollAgain => exact .inl rfl
  case pollFailed hi | pollExpired hi =>
    obtain ⟨h5, h8⟩ := phase_of_waits hd hi
    exact .inr (.inl ⟨by omega, by omega, .inl rfl⟩)
  case bitHigh k hk =>
    simp only [phase_eq hd rfl, captureBit_eng]
    split <;> simp
  all_goals
    simp only [encode, Code.phase.injEq] at hc
    simp [← hc]

/-! ### Single operations, inverted; all but BIT_WAIT_HIGH are no waits, which `simp_all` finds from `waits` -/

theorem of_idle (h : PhaseNext s .idle t) : t = s := by
  cases h
  case idle => rfl
  all_goals simp_all

theorem of_attemptInit (h : PhaseNext s .attemptInit t) :
    t = s.freshAttempt.raise .protocolFault ∨
    t = { s.freshAttempt with eng.attOut := .none, eng.lineDir := .inPD, eng.phase := Phase.idleCheck } := by
  cases h
  case initFailed => exact .inl rfl
  case init => exact .inr rfl
  all_goals simp_all

theorem of_idleCheck (h : PhaseNext s .idleCheck t) :
    (∃ ps r, t = (s.issue ps).raise r) ∨
    (s.eng.idleCount.toNat + 1 = s.par.nIdleSamples ∧ t = { s.countSample with eng.phase := Phase.startLow }) ∨
    (s.eng.idleCount.toNat + 1 ≠ s.par.nIdleSamples ∧ t = s.countSample) := by
  cases h
  case sampleFailed | sampleLow => exact .inl ⟨_, _, rfl⟩
  case sampleLast hn => exact .inr (.inl ⟨hn, rfl⟩)
  case sample hn => exact .inr (.inr ⟨hn, rfl⟩)
  all_goals simp_all

theorem of_bitWaitHigh (h : PhaseNext s .bitWaitHigh t) :
    (∃ ps r, t = (s.issue ps).raise r) ∨ (∃ ps, t = s.issue ps) ∨
    ∃ (k : Fin 40) (ps : List Prim), s.eng.bitCount.toNat = k.val ∧ t = captureBit k s.now (s.issue ps) := by
  cases h
  case pollFailed | pollExpired => exact .inl ⟨_, _, rfl⟩
  case pollAgain => exact .inr (.inl ⟨_, rfl⟩)
  case bitHigh k hk => exact .inr (.inr ⟨k, _, hk, rfl⟩)

theorem of_validate (h : PhaseNext s .validate t) :
    (s.eng.frame.verdict = .success ∧ t = { s with
      eng.attOut := .success, eng.phase := Phase.attemptEnd
      eng.readingHum := BitVec.ofNat 16 s.eng.frame.hum10, eng.readingTemp := BitVec.ofNat 16 s.eng.frame.temp10 }) ∨
    (s.eng.frame.verdict ≠ .success ∧
      t = { s with eng.attOut := s.eng.frame.verdict, eng.phase := Phase.attemptEnd }) := by
  cases h
  case accepted hv => exact .inl ⟨hv, rfl⟩
  case rejected hv => exact .inr ⟨hv, rfl⟩
  all_goals simp_all

theorem of_attemptEnd (h : PhaseNext s .attemptEnd t) :
    (s.eng.attOut = .success ∧ t = s.release.finish .success true) ∨
    (s.eng.attOut ≠ .success ∧ t = (s.release.recordFailure s.eng.attOut).finish .exhaustedRetries false) ∨
    (s.eng.attOut ≠ .success ∧ s.eng.attempt.toNat < s.eng.cfgMaxRetries.toNat ∧
      t = (s.release.recordFailure s.eng.attOut).retry) := by
  cases h
  case succeeded ha => exact .inl ⟨ha, rfl⟩
  case exhausted ha hn => exact .inr (.inl ⟨ha, rfl⟩)
  case retried ha hn => exact .inr (.inr ⟨ha, hn, rfl⟩)
  all_goals simp_all

/-- Within an attempt the engine aborts with a failure or leaves the outcome as it was (43_retry_controller.md R139). -/
theorem aborts_or_keeps_attOut (h : PhaseNext s i t) (hd : decodePhase s.eng.phase = .ok i) (h1 : i ≠ .attemptInit)
    (h9 : i ≠ .validate) (h10 : i ≠ .attemptEnd) :
    (t.eng.phase = Phase.attemptEnd ∧ t.eng.attOut.isFailure = true) ∨
    (t.eng.phase ≠ Phase.attemptEnd ∧ t.eng.attOut = s.eng.attOut) := by
  have hp := phase_ne hd (j := .attemptEnd) rfl h10
  cases h
  case idle | sample | pollAgain => exact .inr ⟨hp, rfl⟩
  case bitHigh => refine .inr ⟨?_, rfl⟩; simp only [captureBit_eng]; split <;> simp
  all_goals simp [OutCode.isFailure] at h1 h9 h10 ⊢

end PhaseNext

/-! ### The host accesses and RESET -/

theorem PortNext.keeps_par_diag (h : PortNext s i t) : t.par = s.par ∧ t.diag = s.diag := by
  cases h <;> simp

theorem PortNext.phase_legal (h : PortNext s i t) (hs : s.eng.phase.toNat ≤ 10) : t.eng.phase.toNat ≤ 10 := by
  cases h
  case reset => simp [Engine.reset]
  case startAccepted => simp
  all_goals simpa using hs

end Sys2Proof.Machine
end

section
/-! The invariant of 10_state.md R46 through the phase operations, component by component. -/

namespace Sys2Proof.Machine

variable {s t : State} {i : Instr} {e : Engine}

theorem nIdleSamples_bounds {p : Params} (hok : p.ok = true) : 1 ≤ p.nIdleSamples ∧ p.nIdleSamples ≤ 15 := by
  simp only [Params.ok, Bool.and_eq_true, decide_eq_true_eq] at hok
  omega

/-! ### The flags -/

/-- While an attempt runs the transaction has no result yet. -/
theorem FlagsInv.running (hf : FlagsInv e) (hp : e.phase ≠ Phase.idle) :
    e.busy = true ∧ e.done = false ∧ e.valid = false ∧ e.result = .none := by
  have hbusy := hf.busy_iff.2 hp
  have hdone := hf.busy_not_done hbusy
  have hresult : e.result = .none := by simpa [hdone] using hf.done_iff
  have hvalid : e.valid = false := by simpa [hresult] using hf.valid_iff
  exact ⟨hbusy, hdone, hvalid, hresult⟩

theorem FlagsInv.of_running (hb : e.busy = true) (hd : e.done = false) (hv : e.valid = false) (hr : e.result = .none)
    (hp : e.phase.toNat ≤ 10) (hi : e.phase ≠ Phase.idle) (hl : e.lastFail = .none ∨ e.lastFail.isFailure = true) :
    FlagsInv e := by
  constructor <;> simp [*, OutCode.isResult]

/-- ATTEMPT_END never finds another outcome than success or a failure (43_retry_controller.md R139). -/
theorem OutcomeInv.failure (ho : OutcomeInv e) (hp : e.phase = Phase.attemptEnd) (ha : e.attOut ≠ .success) :
    e.attOut.isFailure = true := by
  have hcode := ho.att_out_code
  have hend := ho.att_out_end hp
  simpa [OutCode.isAttempt, hend, ha] using hcode

theorem PhaseNext.keeps_flagsInv (h : PhaseNext s i t) (hd : decodePhase s.eng.phase = .ok i) (hs : s.Inv) :
    FlagsInv t.eng := by
  have hlegal := h.phase_legal hs.flags.phase_legal
  have hl := hs.flags.last_fail_code
  by_cases h0 : i = .idle
  · subst h0
    exact h.of_idle ▸ hs.flags
  have hidle := phase_ne hd (j := .idle) rfl h0
  obtain ⟨hb, hdone, hv, hr⟩ := hs.flags.running hidle
  by_cases h10 : i = .attemptEnd
  · subst h10
    have hfail := hs.outcome.failure (phase_eq hd rfl)
    rcases h.of_attemptEnd with ⟨-, rfl⟩ | ⟨ha, rfl⟩ | ⟨ha, -, rfl⟩
    · constructor <;> simp [hl, OutCode.isResult]
    · constructor <;> simp [hfail ha, OutCode.isResult]
    · apply FlagsInv.of_running <;> simp [*]
  · obtain ⟨hb', hdone', hv', hr', hl', -⟩ := h.keeps_result h10
    have hend := phase_ne hd (j := .attemptEnd) rfl h10
    have hmove := h.phase_move hd
    refine .of_running (hb'.trans hb) (hdone'.trans hdone) (hv'.trans hv) (hr'.trans hr) hlegal ?_ (hl' ▸ hl)
    bv_omega

/-! ### The counters: attempts, captured bits and idle samples, each on its own -/

/-- The clauses of `CountersInv` on the attempt count (10_state.md R28). -/
structure AttemptInv (e : Engine) : Prop where
  le : e.busy = true → e.attempt.toNat ≤ e.cfgMaxRetries.toNat
  lt : e.phase = Phase.attemptInit → e.attempt.toNat < e.cfgMaxRetries.toNat
  pos : e.busy = true → e.phase ≠ Phase.attemptInit → 1 ≤ e.attempt.toNat

/-- The clauses of `CountersInv` on the captured bits (10_state.md R29). -/
structure BitInv (e : Engine) : Prop where
  le : e.bitCount.toNat ≤ 40
  setup : 2 ≤ e.phase.toNat → e.phase.toNat ≤ 6 → e.bitCount = 0#6
  capture : e.phase = Phase.bitWaitLow ∨ e.phase = Phase.bitWaitHigh → e.bitCount.toNat < 40
  full : e.phase = Phase.validate → e.bitCount = 40#6

/-- The clauses of `CountersInv` on the idle samples (10_state.md R27). -/
structure IdleInv (p : Params) (e : Engine) : Prop where
  le : e.idleCount.toNat ≤ p.nIdleSamples
  lt : e.phase = Phase.idleCheck → e.idleCount.toNat < p.nIdleSamples
  full : 3 ≤ e.phase.toNat → e.phase.toNat ≤ 9 → e.idleCount.toNat = p.nIdleSamples

theorem countersInv_iff {p : Params} : CountersInv p e ↔ AttemptInv e ∧ BitInv e ∧ IdleInv p e :=
  ⟨fun ⟨a1, a2, a3, b1, b2, b3, b4, c1, c2, c3⟩ => ⟨⟨a1, a2, a3⟩, ⟨b1, b2, b3, b4⟩, ⟨c1, c2, c3⟩⟩,
   fun ⟨⟨a1, a2, a3⟩, ⟨b1, b2, b3, b4⟩, ⟨c1, c2, c3⟩⟩ => ⟨a1, a2, a3, b1, b2, b3, b4, c1, c2, c3⟩⟩

theorem PhaseNext.keeps_attemptInv (h : PhaseNext s i t) (hd : decodePhase s.eng.phase = .ok i)
    (hk : AttemptInv s.eng) : AttemptInv t.eng := by
  obtain ⟨hle, hlt, hpos⟩ := hk
  by_cases h1 : i = .attemptInit
  · subst h1
    have hlt := hlt (phase_eq hd rfl)
    have hadd : (s.eng.attempt + 1#8).toNat = s.eng.attempt.toNat + 1 := by bv_omega
    rcases h.of_attemptInit with rfl | rfl <;> constructor <;> simp [hadd] <;> omega
  by_cases h10 : i = .attemptEnd
  · subst h10
    rcases h.of_attemptEnd with ⟨-, rfl⟩ | ⟨-, rfl⟩ | ⟨-, hn, rfl⟩
    · constructor <;> simp
    · constructor <;> simp
    · constructor <;> simp [hn, hn.le]
  · obtain ⟨hbusy, -⟩ := h.keeps_result h10
    obtain ⟨hcfg, -⟩ := h.keeps_context
    have hinit := phase_ne hd (j := .attemptInit) rfl h1
    have hend := phase_ne hd (j := .attemptEnd) rfl h10
    have hmove := h.phase_move hd
    refine ⟨?_, ?_, ?_⟩ <;> rw [h.keeps_attempt h1]
    · rw [hbusy, hcfg]
      exact hle
    · bv_omega
    · intro hb _
      exact hpos (hbusy ▸ hb) hinit

theorem PhaseNext.keeps_bitInv (h : PhaseNext s i t) (hd : decodePhase s.eng.phase = .ok i) (hk : BitInv s.eng) :
    BitInv t.eng := by
  by_cases h1 : i = .attemptInit
  · subst h1
    rcases h.of_attemptInit with rfl | rfl <;> constructor <;> simp
  by_cases h8 : i = .bitWaitHigh
  · subst h8
    rcases h.of_bitWaitHigh with ⟨ps, r, rfl⟩ | ⟨ps, rfl⟩ | ⟨k, ps, -, rfl⟩
    · constructor <;> simp [hk.le]
    · exact hk
    · by_cases hlast : k.val + 1 = 40
      · constructor <;> simp [hlast]
      · constructor <;> simp [hlast] <;> omega
  · obtain ⟨-, hbits⟩ := h.keeps_capture h1 h8
    obtain ⟨hle, hsetup, hcapture, hfull⟩ := hk
    have hinit := phase_ne hd (j := .attemptInit) rfl h1
    have hhigh := phase_ne hd (j := .bitWaitHigh) rfl h8
    have hmove := h.phase_move hd
    constructor <;> rw [hbits] <;> bv_omega

theorem PhaseNext.keeps_idleInv (h : PhaseNext s i t) (hd : decodePhase s.eng.phase = .ok i) (hok : s.par.ok = true)
    (hk : IdleInv s.par s.eng) : IdleInv t.par t.eng := by
  obtain ⟨hn1, hn15⟩ := nIdleSamples_bounds hok
  obtain ⟨hle, hlt, hfull⟩ := hk
  by_cases h1 : i = .attemptInit
  · subst h1
    rcases h.of_attemptInit with rfl | rfl <;> constructor <;> simp
    omega
  by_cases h2 : i = .idleCheck
  · subst h2
    have hp := phase_eq hd rfl
    have hlt := hlt hp
    have hadd : (s.eng.idleCount + 1#4).toNat = s.eng.idleCount.toNat + 1 := by bv_omega
    rcases h.of_idleCheck with ⟨ps, r, rfl⟩ | ⟨hn, rfl⟩ | ⟨hn, rfl⟩ <;> constructor <;> simp [hadd, hp] <;> omega
  · have hinit := phase_ne hd (j := .attemptInit) rfl h1
    have hcheck := phase_ne hd (j := .idleCheck) rfl h2
    have hmove := h.phase_move hd
    constructor <;> rw [h.keeps_idleCount h1 h2, h.keeps_par] <;> bv_omega

theorem PhaseNext.keeps_countersInv (h : PhaseNext s i t) (hd : decodePhase s.eng.phase = .ok i)
    (hok : s.par.ok = true) (hk : CountersInv s.par s.eng) : CountersInv t.par t.eng := by
  obtain ⟨hattempt, hbits, hidle⟩ := countersInv_iff.1 hk
  exact countersInv_iff.2 ⟨h.keeps_attemptInv hd hattempt, h.keeps_bitInv hd hbits, h.keeps_idleInv hd hok hidle⟩

/-! ### The outcome and the reading -/

theorem Frame.verdict_isFailure {f : Frame} (h : f.verdict ≠ .success) : f.verdict.isFailure = true := by
  unfold Frame.verdict at h ⊢
  split_ifs at h ⊢
  · exact absurd rfl h
  · rfl
  · rfl

theorem Frame.verdict_success {f : Frame} (h : f.verdict = .success) : f.hum10 ≤ 1000 ∧ f.temp10 ≤ 800 := by
  unfold Frame.verdict at h
  split_ifs at h with _ hr
  exact f.inRange_iff.1 hr

/-- An aborted attempt, without a reading. -/
theorem OutcomeInv.of_aborted (hp : e.phase = Phase.attemptEnd) (ha : e.attOut.isFailure = true)
    (hh : e.readingHum = 0#16) (ht : e.readingTemp = 0#16) : OutcomeInv e := by
  have hnone : e.attOut ≠ .none := by
    intro hn
    simp [hn, OutCode.isFailure] at ha
  constructor <;> simp [*, OutCode.isAttempt]

/-- An attempt that has no outcome yet, without a reading. -/
theorem OutcomeInv.of_undecided (hp : e.phase ≠ Phase.attemptEnd) (ha : e.attOut = .none) (hh : e.readingHum = 0#16)
    (ht : e.readingTemp = 0#16) : OutcomeInv e := by
  constructor <;> simp [*, OutCode.isAttempt]

theorem PhaseNext.keeps_outcomeInv (h : PhaseNext s i t) (hd : decodePhase s.eng.phase = .ok i) (hs : s.Inv) :
    OutcomeInv t.eng := by
  obtain ⟨hcode, hrunning, hend, hhum, htemp, hzero⟩ := hs.outcome
  by_cases h0 : i = .idle
  · subst h0
    exact h.of_idle ▸ hs.outcome
  have hidle := phase_ne hd (j := .idle) rfl h0
  obtain ⟨-, -, hvalid, -⟩ := hs.flags.running hidle
  by_cases h10 : i = .attemptEnd
  · subst h10
    rcases h.of_attemptEnd with ⟨-, rfl⟩ | ⟨ha, rfl⟩ | ⟨ha, -, rfl⟩ <;> constructor <;> simp_all
  have hnotEnd := phase_ne hd (j := .attemptEnd) rfl h10
  obtain ⟨hh0, ht0⟩ := hzero hvalid fun hp => hnotEnd hp.1
  by_cases h1 : i = .attemptInit
  · subst h1
    rcases h.of_attemptInit with rfl | rfl
    · exact .of_aborted rfl rfl hh0 ht0
    · exact .of_undecided (by simp) rfl hh0 ht0
  by_cases h9 : i = .validate
  · subst h9
    rcases h.of_validate with ⟨hv, rfl⟩ | ⟨hv, rfl⟩
    · obtain ⟨hhum, htemp⟩ := Frame.verdict_success hv
      constructor <;> simp [OutCode.isAttempt] <;> omega
    · exact .of_aborted rfl (Frame.verdict_isFailure hv) hh0 ht0
  · obtain ⟨hh, ht⟩ := h.keeps_reading h9
    rcases h.aborts_or_keeps_attOut hd h1 h9 h10 with ⟨hp, ha⟩ | ⟨hp, ha⟩
    · exact .of_aborted hp ha (hh.trans hh0) (ht.trans ht0)
    · have hinit := phase_ne hd (j := .attemptInit) rfl h1
      have hlegal := hs.flags.phase_legal
      have hnone := hrunning (by bv_omega) (by bv_omega)
      exact .of_undecided hp (ha.trans hnone) (hh.trans hh0) (ht.trans ht0)

/-! ### The line, the history and the frame -/

/-- START_LOW makes the line an output, START_HIGH and the releases make it an input, and every time mark is a value of
`Now()`. -/
theorem PhaseNext.keeps_lineInv (h : PhaseNext s i t) (hd : decodePhase s.eng.phase = .ok i)
    (hl : LineInv s.par s.eng) : LineInv t.par t.eng := by
  obtain ⟨hin, hout, hmark⟩ := hl
  have hnow := s.now_lt
  cases h
  case idle | sample | pollAgain => exact ⟨hin, hout, hmark⟩
  case bitHigh k hk =>
    have hin := hin (.inr (by simp [phase_eq hd rfl]))
    constructor <;> simp [hin, hnow]
    split <;> simp
  case ackLow | ackHigh | bitLow =>
    have hin := hin (.inr (by simp [phase_eq hd rfl]))
    constructor <;> simp [hin, hnow]
  all_goals constructor <;> simp [hmark, hnow]

theorem DiagInv.append {ds : List Diag} {a : BitVec 8} {c : OutCode} (hds : DiagInv ds) (hc : c.isFailure = true)
    (ha : 1 ≤ a.toNat) : DiagInv (ds ++ [{ attempt := a, outcome := c }]) := by
  intro d hd
  rcases List.mem_append.1 hd with hd | hd
  · exact hds d hd
  · cases List.mem_singleton.1 hd
    exact ⟨hc, ha⟩

theorem PhaseNext.keeps_diagInv (h : PhaseNext s i t) (hd : decodePhase s.eng.phase = .ok i) (hs : s.Inv) :
    DiagInv t.diag := by
  by_cases h10 : i = .attemptEnd
  · subst h10
    have hp := phase_eq hd rfl
    have hbusy := hs.flags.busy_iff.2 (by simp [hp])
    have hpos := hs.counters.attempt_pos hbusy (by simp [hp])
    have hfail := hs.outcome.failure hp
    rcases h.of_attemptEnd with ⟨-, rfl⟩ | ⟨ha, rfl⟩ | ⟨ha, -, rfl⟩
    · simpa using hs.diag
    · simpa using hs.diag.append (hfail ha) hpos
    · simpa using hs.diag.append (hfail ha) hpos
  · obtain ⟨-, -, -, -, -, hdiag⟩ := h.keeps_result h10
    exact hdiag ▸ hs.diag

theorem PhaseNext.keeps_frameInv (h : PhaseNext s i t) (hd : decodePhase s.eng.phase = .ok i)
    (hf : FrameInv s.eng) : FrameInv t.eng := by
  intro h2 h8 j hj
  by_cases h1 : i = .attemptInit
  · subst h1
    rcases h.of_attemptInit with rfl | rfl <;> exact Frame.bit_fresh j
  by_cases hb : i = .bitWaitHigh
  · subst hb
    have hp := phase_eq hd rfl
    have hf := hf (by simp [hp]) (by simp [hp]) j
    rcases h.of_bitWaitHigh with ⟨ps, r, rfl⟩ | ⟨ps, rfl⟩ | ⟨k, ps, hk, rfl⟩
    · simp at h8
    · exact hf hj
    · have hkj : k.val + 1 ≤ j.val := by simpa [Nat.mod_eq_of_lt (show k.val + 1 < 64 by omega)] using hj
      have hne : j ≠ k := by
        rintro rfl
        omega
      simp [Frame.bit_capture, hf (by omega), hne]
  · obtain ⟨hframe, hbits⟩ := h.keeps_capture h1 hb
    have hinit := phase_ne hd (j := .attemptInit) rfl h1
    have hmove := h.phase_move hd
    rw [hframe]
    exact hf (by bv_omega) (by bv_omega) j (hbits ▸ hj)

theorem PhaseNext.keeps_inv (h : PhaseNext s i t) (hd : decodePhase s.eng.phase = .ok i) (hok : s.par.ok = true)
    (hs : s.Inv) : t.Inv :=
  ⟨h.keeps_flagsInv hd hs, h.keeps_countersInv hd hok hs.counters, h.keeps_outcomeInv hd hs,
   h.keeps_lineInv hd hs.line, h.keeps_diagInv hd hs, h.keeps_frameInv hd hs.frame⟩

end Sys2Proof.Machine
end

section
/-! The invariant through the host accesses, RESET, whole steps and runs. -/

namespace Sys2Proof.Machine

variable {s t : State} {i : Instr}

/-- The invariant speaks of the engine less OVR, the parameters and the history. -/
theorem State.Inv.of_same (hs : s.Inv) {b : Bool} (he : t.eng = { s.eng with ovr := b }) (hp : t.par = s.par)
    (hd : t.diag = s.diag) : t.Inv := by
  cases t
  cases he
  cases hp
  cases hd
  exact ⟨{ hs.flags with }, { hs.counters with }, { hs.outcome with }, { hs.line with }, hs.diag, hs.frame⟩

theorem FrameInv.of_phase_lt {e : Engine} (h : e.phase.toNat < 2) : FrameInv e :=
  fun h2 => absurd h2 (by omega)

/-- The reset values of 10_state.md R45 are good under every configuration. -/
theorem State.Inv.of_reset (he : s.eng = Engine.reset s.par) (hd : DiagInv s.diag) : s.Inv := by
  refine ⟨?_, ?_, ?_, ?_, hd, .of_phase_lt (by simp [he, Engine.reset])⟩ <;> rw [he]
  all_goals constructor <;> simp [Engine.reset, OutCode.isResult, OutCode.isAttempt]

/-- The configuration is free while no transaction runs (44_host_port.md R149). -/
theorem State.Inv.configure (hs : s.Inv) (hb : s.eng.busy = false) (v : Word) : (s.configure v).Inv := by
  have hp : s.eng.phase = Phase.idle := by simpa [hb] using hs.flags.busy_iff
  refine ⟨{ hs.flags with }, { hs.counters with attempt_le := ?_, attempt_lt := ?_ }, { hs.outcome with },
    { hs.line with }, hs.diag, hs.frame⟩
  · simp [hb]
  · simp [hp]

theorem State.Inv.startRefused (hs : s.Inv) (hb : s.eng.busy = false) (v : Word) : (s.startRefused v).Inv := by
  have hp : s.eng.phase = Phase.idle := by simpa [hb] using hs.flags.busy_iff
  obtain ⟨-, hk, ho, hl, hd, -⟩ := hs
  refine ⟨?_, ?_, ?_, { hl with }, hd, .of_phase_lt (by simp [hp])⟩
  · constructor <;> simp [hb, hp, OutCode.isResult]
  · obtain ⟨-, -, hidle⟩ := countersInv_iff.1 hk
    refine countersInv_iff.2 ⟨?_, ?_, { hidle with }⟩
    · constructor <;> simp [hb, hp]
    · constructor <;> simp [hp]
  · constructor <;> simp [hp, ho.att_out_code]

theorem State.Inv.startAccepted (hs : s.Inv) {v : Word} (hn : ctrlRetries v ≠ 0#8) : (s.startAccepted v).Inv := by
  obtain ⟨-, hk, ho, hl, hd, -⟩ := hs
  refine ⟨?_, ?_, ?_, ?_, hd, .of_phase_lt (by simp)⟩
  · constructor <;> simp [OutCode.isResult]
  · refine countersInv_iff.2 ⟨?_, ?_, ?_⟩
    · constructor <;> simp
      bv_omega
    · constructor <;> simp
    · constructor <;> simp [hk.idle_count_le]
  · constructor <;> simp [ho.att_out_code]
  · constructor <;> simp [hl.t_mark_lt]

theorem PortNext.keeps_inv (h : PortNext s i t) (hs : s.Inv) : t.Inv := by
  cases h with
  | rdCtrl | rdStatus | rdReading | rdReserved => exact hs.of_same rfl rfl rfl
  | wrStatus | wrReading | wrReserved => exact hs
  | clearOvr => exact hs.of_same rfl rfl rfl
  | wrCtrlBusy v | startBusy v => exact hs.of_same (s.ctrlBusy_eng v) (s.ctrlBusy_par v) (s.ctrlBusy_diag v)
  | wrCtrl v hb => exact hs.configure hb v
  | startRefused v hb => exact hs.startRefused hb v
  | startAccepted v hb hn => exact hs.startAccepted hn
  | reset => exact .of_reset rfl hs.diag

/-- Taking the next event and its draws leaves what the invariant speaks of. -/
theorem State.Inv.begin (hs : s.Inv) {e : Event} {s0 : State} (hn : s.nextEvent = (e, s0)) : (s0.begin e).Inv := by
  obtain ⟨heng, hdiag, hpar⟩ := nextEvent_fields hn
  exact hs.of_same (b := s.eng.ovr) (by simp [heng]) (by simp [hpar]) (by simp [hdiag])

theorem step_keeps_inv (hs : s.Inv) (h : step s = .next t) : t.Inv := by
  obtain ⟨hok, e, s0, hn, hcase⟩ := step_by_event h
  have hbegin := hs.begin hn
  obtain ⟨heng, -, hpar⟩ := nextEvent_fields hn
  rcases hcase with ⟨d, i, -, hd, hnext⟩ | ⟨a, -, hnext⟩ | ⟨-, hnext⟩
  · exact hnext.keeps_inv (by simpa [heng] using hd) (by simpa [hpar] using hok) hbegin
  · exact hnext.keeps_inv hbegin
  · exact hnext.keeps_inv hbegin

theorem run_keeps_inv (n : Nat) (hs : s.Inv) (h : Sys2Proof.core.run n s = .next t) : t.Inv := by
  induction n generalizing s with
  | zero =>
    cases h
    exact hs
  | succ n ih =>
    obtain ⟨u, hstep, hrun⟩ := core_run_succ_next Sys2Proof.core n s t h
    exact ih (step_keeps_inv hs hstep) hrun

/-- Settles O13: phase operations keep each component of the invariant, host accesses and RESET the whole. -/
theorem everyStepKeepsTheStateGood : Obligations.EveryStepKeepsTheStateGood :=
  fun _ _ hs h => step_keeps_inv hs h

/-- Settles O12: the reset values under the default parameters, with an empty history. -/
theorem resetStateIsGood : Obligations.ResetStateIsGood :=
  .of_reset rfl (by simp [DiagInv, State.reset])

/-- Settles O16: the invariant holds at the reset values of any configuration and along every run, and the nine clauses
are among what it says. -/
theorem reachableStatesKeepTheListedInvariants : Obligations.ReachableStatesKeepTheListedInvariants := by
  intro p evs n s hrun
  obtain ⟨hf, hk, -, -, -, -⟩ := run_keeps_inv n (.of_reset rfl (by simp [DiagInv, State.reset])) hrun
  refine ⟨hf.busy_iff, fun hb => ?_, fun hv => ?_, hk.attempt_le, fun hb => ?_, hk.bit_count_le, hk.bit_count_capture,
    hk.idle_count_le, hf.phase_legal⟩
  · obtain ⟨-, hdone, hvalid, -⟩ := hf.running (hf.busy_iff.1 hb)
    exact ⟨hdone, hvalid⟩
  · have hr := hf.valid_iff.1 hv
    exact ⟨hf.done_iff.2 (by simp [hr]), hr⟩
  · by_cases hp : s.eng.phase = Phase.attemptInit
    · rcases Nat.eq_zero_or_pos s.eng.attempt.toNat with h0 | hpos
      · exact .inr ⟨hp, h0⟩
      · exact .inl hpos
    · exact .inl (hk.attempt_pos hb hp)

end Sys2Proof.Machine
end

section
/-! Which operations answer a next state (10_state.md R46, R47; 60_exceptions.md R187). -/

namespace Sys2Proof.Machine

variable {s : State} {i : Instr}

theorem PhaseNext.exists_of_waits {l : Level} (hi : (i, l) ∈ waits)
    (hedge : s.draw.err = false → s.draw.lv ≠ l → ∃ t, PhaseNext s i t) : ∃ t, PhaseNext s i t := by
  cases he : s.draw.err
  case true => exact ⟨_, .pollFailed i l hi he⟩
  case false =>
    by_cases hl : s.draw.lv = l
    · cases ht : timedOut s.par (elapsed s.par.tsBits s.now s.eng.tMark)
      · exact ⟨_, .pollAgain i l hi he hl ht⟩
      · exact ⟨_, .pollExpired i l hi he hl ht⟩
    · exact hedge he hl

theorem PhaseNext.exists_idleCheck (s : State) : ∃ t, PhaseNext s .idleCheck t := by
  cases he : s.draw.err
  case true => exact ⟨_, .sampleFailed he⟩
  case false =>
    cases hl : s.draw.lv
    · exact ⟨_, .sampleLow he hl⟩
    · by_cases hn : s.eng.idleCount.toNat + 1 = s.par.nIdleSamples
      · exact ⟨_, .sampleLast he hl hn⟩
      · exact ⟨_, .sample he hl hn⟩

theorem PhaseNext.exists_attemptEnd (s : State) : ∃ t, PhaseNext s .attemptEnd t := by
  by_cases ha : s.eng.attOut = .success
  · exact ⟨_, .succeeded ha⟩
  · rcases Nat.lt_or_ge s.eng.attempt.toNat s.eng.cfgMaxRetries.toNat with hn | hn
    · exact ⟨_, .retried ha hn⟩
    · exact ⟨_, .exhausted ha hn⟩

/-- Every phase operation has a next state, BIT_WAIT_HIGH while there is a frame bit to capture. -/
theorem PhaseNext.exists_next (hi : i.format = .phase4) (hb : i = .bitWaitHigh → s.eng.bitCount.toNat < 40) :
    ∃ t, PhaseNext s i t := by
  cases i <;> try cases hi
  case idle => exact ⟨_, .idle⟩
  case attemptInit => cases he : s.draw.err; exacts [⟨_, .init he⟩, ⟨_, .initFailed he⟩]
  case idleCheck => exact exists_idleCheck s
  case startLow => cases he : s.draw.err; exacts [⟨_, .low he⟩, ⟨_, .lowFailed he⟩]
  case startHigh => cases he : s.draw.err; exacts [⟨_, .high he⟩, ⟨_, .highFailed he⟩]
  case ackWaitLow => exact exists_of_waits (by simp) fun he hl => ⟨_, .ackLow he (Level.ne_high.1 hl)⟩
  case ackWaitHigh => exact exists_of_waits (by simp) fun he hl => ⟨_, .ackHigh he (Level.ne_low.1 hl)⟩
  case bitWaitLow => exact exists_of_waits (by simp) fun he hl => ⟨_, .bitLow he (Level.ne_low.1 hl)⟩
  case bitWaitHigh =>
    exact exists_of_waits (by simp) fun he hl => ⟨_, .bitHigh he (Level.ne_high.1 hl) ⟨_, hb rfl⟩ rfl⟩
  case validate =>
    by_cases hv : s.eng.frame.verdict = .success
    exacts [⟨_, .accepted hv⟩, ⟨_, .rejected hv⟩]
  case attemptEnd => exact exists_attemptEnd s

/-- Every host access but a refused one, and RESET, answers a next state. -/
theorem port_total (hi : i.format ≠ .phase4) (hr : ∀ a, i ≠ .refusedAccess a) : ∃ t, exec i s = .next t := by
  cases i <;> try exact absurd rfl hi
  case refusedAccess a => exact absurd rfl (hr a)
  case wrCtrl | start | wrStatus =>
    simp only [exec, execWrCtrl, execStart, execWrStatus]
    split_ifs <;> exact ⟨_, rfl⟩
  all_goals exact ⟨_, rfl⟩

/-- A served access is not refused (44_host_port.md R158). -/
theorem decodeAccess_served {a : Access} (ha : a.served = true) (a' : Access) :
    decodeAccess a ≠ .refusedAccess a' := by
  unfold decodeAccess decodeRead decodeWrite
  rw [if_pos ha]
  split <;> split_ifs <;> simp

/-- Settles O14: a good state has a legal phase, and in BIT_WAIT_HIGH fewer than 40 captured bits. -/
theorem goodStatesAreNeverStuck : Obligations.GoodStatesAreNeverStuck := by
  intro s e rest hs hok hp hlegal
  cases e with
  | engine d =>
    obtain ⟨i, hd⟩ := decodePhase_legal hs.flags.phase_legal
    rw [step_of_pending_cons hok hp hd]
    obtain ⟨t, hnext⟩ := PhaseNext.exists_next (s := State.begin { s with pending := rest } (.engine d))
      (decodePhase_ok hd).1 fun hi => hs.counters.bit_count_capture (.inr (phase_eq hd (hi ▸ rfl)))
    exact ⟨t, phase_next hnext⟩
  | host a =>
    rw [step_of_pending_cons hok hp (decode_codeOfAccess a)]
    exact port_total (by simp [decodeAccess_format]) (decodeAccess_served hlegal)
  | rst =>
    rw [step_of_pending_cons hok hp (i := .reset) rfl]
    exact ⟨_, rfl⟩

end Sys2Proof.Machine
end

section
/-! Statements about single steps and phase operations: reserved phases, what they leave alone, the line registers, and
the reset values. -/

namespace Sys2Proof.Machine

variable {s s' t : State} {i : Instr}

/-- Settles O4: the decoder rejects the reserved codes, and no phase operation, host access or RESET writes one. -/
theorem reservedPhasesAreStuckAndNeverWritten : Obligations.ReservedPhasesAreStuckAndNeverWritten := by
  refine ⟨fun c => decodePhase_reserved, fun s d rest hok hp hphase => ?_, fun s s' hphase h => ?_, by decide⟩
  · refine step_reserved hok ?_
    rw [s.nextEvent_cons _ _ hp]
    exact decodePhase_reserved hphase
  · obtain ⟨-, e, s0, hn, hcase⟩ := step_by_event h
    obtain ⟨heng, -, -⟩ := nextEvent_fields hn
    have hbegin : (s0.begin e).eng.phase.toNat ≤ 10 := by simpa [heng] using hphase
    rcases hcase with ⟨d, i, -, -, hnext⟩ | ⟨a, -, hnext⟩ | ⟨-, hnext⟩ <;> exact hnext.phase_legal hbegin

/-- Settles O17: no operation writes the parameters, and only ATTEMPT_END writes the history, at its end. -/
theorem parametersStayAndDiagOnlyGrows : Obligations.ParametersStayAndDiagOnlyGrows := by
  intro s s' h
  obtain ⟨-, e, s0, hn, hcase⟩ := step_by_event h
  obtain ⟨-, hdiag, hpar⟩ := nextEvent_fields hn
  rw [← hpar, ← hdiag, ← s0.begin_par e, ← s0.begin_diag e]
  rcases hcase with ⟨d, i, -, -, hnext⟩ | ⟨a, -, hnext⟩ | ⟨-, hnext⟩
  · exact ⟨hnext.keeps_par, hnext.diag_grows⟩
  all_goals
    obtain ⟨hpar, hdiag⟩ := hnext.keeps_par_diag
    exact ⟨hpar, by simp [hdiag]⟩

/-- Settles O41: the frame lemmas of the phase operations. -/
theorem phaseOperationsKeepTheirFrame : Obligations.PhaseOperationsKeepTheirFrame := by
  intro i s t hi h
  have hnext := phase_cases hi h
  exact ⟨hnext.keeps_context, hnext.keeps_result, hnext.keeps_reading, hnext.keeps_attempt, hnext.keeps_capture,
    hnext.keeps_idleCount⟩

/-! ### OVR and the pin -/

theorem Engine.sameButOvrPin.eq_update {e e' : Engine} (h : e.sameButOvrPin e') :
    e' = { e with ovr := e'.ovr, cfgPin := e'.cfgPin } := by
  cases e
  cases e'
  simp only [Engine.sameButOvrPin, Engine.mk.injEq] at h
  simp [h]

/-- The engine's sequence does not see OVR or the pin: the same case of the same operation happens, and writes the same
values (10_state.md R25, R31). -/
theorem PhaseNext.of_sameButOvrPin (h : PhaseNext s i t) (he : s.eng.sameButOvrPin s'.eng) (hw : s.draw = s'.draw)
    (hp : s.par = s'.par) (hg : s.diag = s'.diag) :
    ∃ t', PhaseNext s' i t' ∧ t.eng.sameButOvrPin t'.eng ∧ t.diag = t'.diag := by
  obtain ⟨e', diag', par', draw', pending', freeCount', issued', readData'⟩ := s'
  have he := he.eq_update
  simp only at he hw hp hg
  generalize e'.ovr = o at he
  generalize e'.cfgPin = b at he
  subst he hw hp hg
  cases h with
  | idle => exact ⟨_, .idle, rfl, rfl⟩
  | initFailed he => exact ⟨_, .initFailed he, rfl, rfl⟩
  | init he => exact ⟨_, .init he, rfl, rfl⟩
  | sampleFailed he => exact ⟨_, .sampleFailed he, rfl, rfl⟩
  | sampleLow he hl => exact ⟨_, .sampleLow he hl, rfl, rfl⟩
  | sampleLast he hl hn => exact ⟨_, .sampleLast he hl hn, rfl, rfl⟩
  | sample he hl hn => exact ⟨_, .sample he hl hn, rfl, rfl⟩
  | lowFailed he => exact ⟨_, .lowFailed he, rfl, rfl⟩
  | low he => exact ⟨_, .low he, rfl, rfl⟩
  | highFailed he => exact ⟨_, .highFailed he, rfl, rfl⟩
  | high he => exact ⟨_, .high he, rfl, rfl⟩
  | pollFailed _ l hi he => exact ⟨_, .pollFailed _ l hi he, rfl, rfl⟩
  | pollExpired _ l hi he hl ht => exact ⟨_, .pollExpired _ l hi he hl ht, rfl, rfl⟩
  | pollAgain _ l hi he hl ht => exact ⟨_, .pollAgain _ l hi he hl ht, rfl, rfl⟩
  | ackLow he hl => exact ⟨_, .ackLow he hl, rfl, rfl⟩
  | ackHigh he hl => exact ⟨_, .ackHigh he hl, rfl, rfl⟩
  | bitLow he hl => exact ⟨_, .bitLow he hl, rfl, rfl⟩
  | bitHigh he hl k hk => exact ⟨_, .bitHigh (by exact he) (by exact hl) k (by exact hk), rfl, rfl⟩
  | accepted hv => exact ⟨_, .accepted hv, rfl, rfl⟩
  | rejected hv => exact ⟨_, .rejected hv, rfl, rfl⟩
  | succeeded ha => exact ⟨_, .succeeded ha, by simp [Engine.sameButOvrPin], by simp⟩
  | exhausted ha hn => exact ⟨_, .exhausted ha hn, by simp [Engine.sameButOvrPin], by simp⟩
  | retried ha hn => exact ⟨_, .retried ha hn, by simp [Engine.sameButOvrPin], by simp⟩

/-- Settles O42: the other run takes the same case of the same operation. -/
theorem ovrAndPinDoNotSteerTheEngine : Obligations.OvrAndPinDoNotSteerTheEngine := by
  intro i s s' t hi he hw hp hg h
  obtain ⟨t', hnext, hsame⟩ := (phase_cases hi h).of_sameButOvrPin he hw hp hg
  exact ⟨t', phase_next hnext, hsame⟩

/-! ### The line registers -/

/-- Without an error the line registers follow the primitives; with one they stay (40_line_interface.md R96 to R99). -/
theorem PhaseNext.mirrors_line (h : PhaseNext s i t) (hi : s.issued = []) :
    (s.draw.err = false → t.eng.lineDir = t.issued.foldl Prim.dirAfter s.eng.lineDir ∧
      t.eng.lineDrv = t.issued.foldl Prim.drvAfter s.eng.lineDrv) ∧
    (s.draw.err = true → t.eng.lineDir = s.eng.lineDir ∧ t.eng.lineDrv = s.eng.lineDrv) := by
  cases h <;> simp_all [Prim.dirAfter, Prim.drvAfter, pollPrims]

/-- Settles O45: an engine step begins with nothing issued and runs one phase operation. -/
theorem lineDirectionMirrorsWhatWasIssued : Obligations.LineDirectionMirrorsWhatWasIssued := by
  intro s s' d rest hp h
  obtain ⟨i, -, hnext⟩ := engine_step_cases hp h
  exact hnext.mirrors_line rfl

/-! ### The reset values -/

/-- Settles O5: the table of 10_state.md R45 at `DEFAULT_MAX_RETRIES` = 5, and the three register words it gives. -/
theorem resetValuesAreThoseOfTheTable : Obligations.ResetValuesAreThoseOfTheTable :=
  ⟨rfl, by decide, by decide, by decide⟩

end Sys2Proof.Machine
end

section
/-! The host's window: every served access completes (20_memory.md R63), and which accesses leave the result standing
(20_memory.md R65). -/

namespace Sys2Proof

/-- START is the aligned CTRL write with data bit 0 set, and no other access (30_encoding.md R83). -/
theorem decodeAccess_eq_start_iff {a : Access} {v : Word} :
    decodeAccess a = .start v ↔ v.getLsbD 0 = true ∧ a = .write 4 0x00#8 v := by
  constructor
  · intro h
    unfold decodeAccess decodeRead decodeWrite at h
    split at h
    case isFalse => cases h
    case isTrue hserved =>
      obtain ⟨hwidth, -⟩ := a.served_iff.1 hserved
      cases a with
      | read width off =>
        simp only at h
        split_ifs at h
      | write width off w =>
        simp only at h
        split_ifs at h with hoff hbit
        cases h
        cases hwidth
        exact ⟨hbit, by rw [hoff]⟩
  · rintro ⟨hbit, rfl⟩
    rw [decodeAccess_write _ _ rfl, decodeWrite, if_pos rfl, if_pos hbit]

theorem decodeAccess_ne_reset (a : Access) : decodeAccess a ≠ .reset := by
  intro h
  have hformat := decodeAccess_format a
  rw [h] at hformat
  cases hformat

end Sys2Proof

namespace Sys2Proof.Machine

variable {s t : State} {i : Instr}

/-- Settles O11: a served access decodes to a host operation that is not refused, and those always answer. -/
theorem alignedWordAccessesAlwaysComplete : Obligations.AlignedWordAccessesAlwaysComplete := by
  intro s a rest hok hp hwidth hoff
  rw [step_of_pending_cons hok hp (decode_codeOfAccess a)]
  exact port_total (by simp [decodeAccess_format]) (decodeAccess_served (a.served_iff.2 ⟨hwidth, hoff⟩))

/-- Without a START or a RESET the host changes OVR and the configuration at most (44_host_port.md R148, R149, R153). -/
theorem PortNext.eng_eq_update (h : PortNext s i t) (hstart : ∀ v, i ≠ .start v) (hreset : i ≠ .reset) :
    t.eng = { s.eng with ovr := t.eng.ovr, cfgMaxRetries := t.eng.cfgMaxRetries, cfgPin := t.eng.cfgPin } := by
  cases h with
  | startBusy v | startRefused v | startAccepted v => exact absurd rfl (hstart v)
  | reset => exact absurd rfl hreset
  | wrCtrlBusy v => simp
  | rdCtrl | wrCtrl | rdStatus | clearOvr | wrStatus | rdReading | wrReading | rdReserved | wrReserved => rfl

/-- While no transaction runs an engine step takes the operation IDLE (10_state.md R46, 43_retry_controller.md R136). -/
theorem FlagsInv.idle_of_not_busy {e : Engine} (hf : FlagsInv e) (hb : e.busy = false)
    (hd : decodePhase e.phase = .ok i) : i = .idle := by
  have hphase : e.phase = Phase.idle := by simpa [hb] using hf.busy_iff
  rw [hphase] at hd
  cases hd
  rfl

/-- Settles O57: neither READING nor STATUS less OVR shows the configuration, and a host access that is no START
changes nothing else; an engine step in IDLE changes nothing at all. -/
theorem resultsStandUntilTheNextStart : Obligations.ResultsStandUntilTheNextStart := by
  intro s s' e rest hs hbusy hp hrst hstart h
  cases e with
  | rst => exact absurd rfl hrst
  | engine d =>
    obtain ⟨i, hd, hnext⟩ := engine_step_cases hp h
    obtain rfl := hs.flags.idle_of_not_busy hbusy hd
    cases hnext.of_idle
    exact ⟨rfl, rfl⟩
  | host a =>
    have hnoStart : ∀ v, decodeAccess a ≠ .start v := by
      intro v hv
      obtain ⟨hbit, rfl⟩ := decodeAccess_eq_start_iff.1 hv
      exact hstart v hbit rfl
    have heng := (host_step_cases hp h).eng_eq_update hnoStart (decodeAccess_ne_reset a)
    rw [heng]
    exact ⟨rfl, rfl⟩

end Sys2Proof.Machine
end

section
/-! The encoding both ways (30_encoding.md R80, R82, R83), and a table word placed for the next step (log entry 8). -/

namespace Sys2Proof

variable {i : Instr} {off : Byte} {v : Word}

/-! ### Host accesses that select a given row of R83 -/

theorem decodeRead_reserved (h : reservedOff off = true) : decodeRead off = .rdReserved off := by
  obtain ⟨-, h0, h4, h8⟩ := (reservedOff_iff off).1 h
  rw [decodeRead, if_neg h0, if_neg h4, if_neg h8]

theorem decodeWrite_reserved (h : reservedOff off = true) : decodeWrite off v = .wrReserved off v := by
  obtain ⟨-, h0, h4, h8⟩ := (reservedOff_iff off).1 h
  rw [decodeWrite, if_neg h0, if_neg h4, if_neg h8]

theorem decodeWrite_ctrl : decodeWrite 0x00#8 v = if v.getLsbD 0 then .start v else .wrCtrl v :=
  if_pos rfl

/-- Settles O1: the row of each operation is the one its code selects. A phase code and the offset of a named register
select it by computation, data bit 0 tells START from WR_CTRL, a reserved offset is none of the three registers, and
an access that is not served is refused. -/
theorem decodeOfEncodeIsTheInstruction : Obligations.DecodeOfEncodeIsTheInstruction := by
  intro i hi
  cases i with
  | idle | attemptInit | idleCheck | startLow | startHigh | ackWaitLow | ackWaitHigh | bitWaitLow | bitWaitHigh
  | validate | attemptEnd | rdCtrl | rdStatus | rdReading | reset => rfl
  | wrStatus v | wrReading v => rw [encode, decode_codeOfAccess, decodeAccess_write _ _ rfl]; rfl
  | wrCtrl v =>
    have hbit : ¬ v.getLsbD 0 = true := by simpa [Instr.wf] using hi
    rw [encode, decode_codeOfAccess, decodeAccess_write _ _ rfl, decodeWrite_ctrl, if_neg hbit]
  | start v =>
    have hbit : v.getLsbD 0 = true := hi
    rw [encode, decode_codeOfAccess, decodeAccess_write _ _ rfl, decodeWrite_ctrl, if_pos hbit]
  | rdReserved off =>
    obtain ⟨halign, -⟩ := (reservedOff_iff off).1 hi
    rw [encode, decode_codeOfAccess, decodeAccess_read _ halign, decodeRead_reserved hi]
  | wrReserved off v =>
    obtain ⟨halign, -⟩ := (reservedOff_iff off).1 hi
    rw [encode, decode_codeOfAccess, decodeAccess_write _ _ halign, decodeWrite_reserved hi]
  | refusedAccess a =>
    rw [encode, decode_codeOfAccess, decodeAccess_refused a (by simpa [Instr.wf] using hi)]

/-! ### What the decoder accepts -/

theorem Instr.wf_of_phase4 (h : i.format = .phase4) : i.wf = true := by
  cases i with
  | idle | attemptInit | idleCheck | startLow | startHigh | ackWaitLow | ackWaitHigh | bitWaitLow | bitWaitHigh
  | validate | attemptEnd => rfl
  | _ => cases h

/-- Every host access selects a row that admits its operands and is encoded as that access. -/
theorem decodeAccess_wf_encode (a : Access) :
    (decodeAccess a).wf = true ∧ encode (decodeAccess a) = codeOfAccess a := by
  cases hserved : a.served with
  | false =>
    rw [decodeAccess_refused a hserved]
    exact ⟨by simp [Instr.wf, hserved], rfl⟩
  | true =>
    obtain ⟨hwidth, hoff⟩ := a.served_iff.1 hserved
    have halign := (alignedOff_iff a.off).2 hoff
    cases a with
    | read width off =>
      cases hwidth
      rw [decodeAccess_read off halign]
      unfold decodeRead
      split_ifs with h0 h4 h8
      · exact ⟨rfl, by rw [h0]; rfl⟩
      · exact ⟨rfl, by rw [h4]; rfl⟩
      · exact ⟨rfl, by rw [h8]; rfl⟩
      · exact ⟨(reservedOff_iff off).2 ⟨halign, h0, h4, h8⟩, rfl⟩
    | write width off v =>
      cases hwidth
      rw [decodeAccess_write off v halign]
      unfold decodeWrite
      split_ifs with h0 hbit h4 h8
      · exact ⟨hbit, by rw [h0]; rfl⟩
      · exact ⟨by simpa [Instr.wf] using hbit, by rw [h0]; rfl⟩
      · exact ⟨rfl, by rw [h4]; rfl⟩
      · exact ⟨rfl, by rw [h8]; rfl⟩
      · exact ⟨(reservedOff_iff off).2 ⟨halign, h0, h4, h8⟩, rfl⟩

/-- The encoder writes the access of a port code as that code, with the data lines of a read at 0. -/
theorem codeOfAccess_accessOfPort (width : Nat) (d : BitVec 9) (v : Word) :
    codeOfAccess (accessOfPort width d v) = (Code.port width d v).normal := by
  have hdesc := descOf_descWrite_descOff d
  cases hw : descWrite d <;> rw [hw] at hdesc <;> simp [accessOfPort, codeOfAccess, Code.normal, hw, hdesc]

/-- Settles O2: a phase code is the code of its operation, and a port code is the access it asks for, normalised. -/
theorem encodeOfDecodeIsTheCode : Obligations.EncodeOfDecodeIsTheCode := by
  intro c i h
  cases c with
  | phase p =>
    obtain ⟨hformat, hcode⟩ := decodePhase_ok h
    exact ⟨Instr.wf_of_phase4 hformat, hcode⟩
  | port width d v =>
    cases h
    rw [← codeOfAccess_accessOfPort]
    exact decodeAccess_wf_encode _
  | rst =>
    cases h
    exact ⟨rfl, rfl⟩

/-- Settles O3: the decoder computes each of the ten. -/
theorem sampleCodesDecodeAsTheSpecWritesThem : Obligations.SampleCodesDecodeAsTheSpecWritesThem :=
  ⟨rfl, rfl, rfl, rfl, rfl, rfl, rfl, rfl, rfl, rfl⟩

/-! ### Table words -/

theorem decodeTableWord_eq_some_iff {nbits w : Nat} :
    decodeTableWord nbits w = some i ↔ ∃ c, codeOfTableWord nbits w = some c ∧ decode c = .ok i := by
  unfold decodeTableWord
  cases codeOfTableWord nbits w with
  | none => simp
  | some c => cases hd : decode c <;> simp [hd]

end Sys2Proof

namespace Sys2Proof.Machine

/-- A placed code is the next event's code: the next step runs its operation, in the phase the placing left. -/
theorem step_place {s : State} {c : Code} {i : Instr} (hok : s.par.ok = true) (hd : decode c = .ok i) :
    step (s.place c) =
      exec i { s with eng.phase := (s.place c).eng.phase, issued := [], readData := none } := by
  cases c with
  | phase p => exact step_of_pending_cons (s := s.place (.phase p)) hok rfl hd
  | port width d v =>
    cases hd
    exact step_of_pending_cons (s := s.place (.port width d v)) hok rfl (decode_codeOfAccess _)
  | rst => exact step_of_pending_cons (s := s.place .rst) hok rfl hd

/-- Settles O9: a table word that decodes is a code of its format, and that code is placed. -/
theorem placedTableWordIsTheNextInstruction : Obligations.PlacedTableWordIsTheNextInstruction := by
  intro s nbits w i hok h
  obtain ⟨c, hc, hd⟩ := decodeTableWord_eq_some_iff.1 h
  have hplace : s.withFetchWord nbits w = s.place c := by rw [State.withFetchWord, hc]
  rw [hplace]
  exact step_place hok hd

end Sys2Proof.Machine
end

section
/-! Elapsed time (30_encoding.md R86) and the capture of a frame (R73 to R76, 41_protocol_driver.md R117 to R120). -/

namespace Sys2Proof.Machine

variable {s t : State}

/-! ### Modular elapsed time -/

theorem elapsed_cast (n t m : Nat) : (elapsed n t m : Int) = ((t : Int) - m) % ((2 ^ n : Nat) : Int) :=
  Int.toNat_of_nonneg (Int.emod_nonneg _ (by positivity))

/-- Elapsed time depends on the two time values modulo `2^TS_BITS` alone. -/
@[simp] theorem elapsed_mod_left (n t m : Nat) : elapsed n (t % 2 ^ n) m = elapsed n t m := by
  simp [elapsed]

@[simp] theorem elapsed_mod_right (n t m : Nat) : elapsed n t (m % 2 ^ n) = elapsed n t m := by
  simp [elapsed]

theorem add_elapsed_mod (n t m : Nat) : (m + elapsed n t m) % 2 ^ n = t % 2 ^ n := by
  zify
  rw [elapsed_cast]
  simp

theorem elapsed_add_lt {n m d : Nat} (hd : d < 2 ^ n) : elapsed n (m + d) m = d := by
  zify
  rw [elapsed_cast]
  push_cast
  rw [add_sub_cancel_left]
  exact Int.emod_eq_of_lt (by positivity) (by exact_mod_cast hd)

theorem elapsed_add_wrap (n t m : Nat) : elapsed n (t + 2 ^ n) m = elapsed n t m := by
  rw [← elapsed_mod_left, Nat.add_mod_right, elapsed_mod_left]

/-- Settles O22: elapsed time is a residue modulo `2^TS_BITS`, so it measures what lies below exactly and no more. -/
theorem elapsedTimeAbsorbsOneWrap : Obligations.ElapsedTimeAbsorbsOneWrap := by
  refine ⟨fun n t m => ⟨elapsed_lt n t m, add_elapsed_mod n t m⟩, fun n m d hd => ?_, fun n m d => ?_⟩
  · rw [elapsed_mod_left, elapsed_add_lt hd]
  · rw [elapsed_mod_left, elapsed_mod_left, ← Nat.add_assoc, elapsed_add_wrap]

/-! ### One bit -/

/-- Settles O26: the edge captures the measured bit at `k`, and a captured bit stays only if it is 1. -/
theorem pulseWidthDecidesOneFrameBit : Obligations.PulseWidthDecidesOneFrameBit := by
  intro s t k he hl hk h
  cases (capture_edge he hl k hk).symm.trans h
  refine ⟨?_, fun j hj => ?_⟩
  · simp [Frame.bit_capture, pulseBit_eq_true, State.now]
  · simp [Frame.bit_capture, hj]

/-- The bit that a High phase between two times is decoded as (41_protocol_driver.md R119). -/
def measuredBit (p : Params) (rise fall : Nat) : Bool := pulseBit p (elapsed p.tsBits fall rise)

/-- The two engine events of a pulse: the rising and the falling edge. -/
def pulseEvents (rise fall : Nat) : List Event := [answers .high rise false, answers .low fall false]

/-- The engine waits for the rising edge of capture bit `k`, or has all 40 bits and is to validate them. -/
structure Capturing (k : Nat) (s : State) : Prop where
  phase : s.eng.phase = if k = 40 then Phase.validate else Phase.bitWaitLow
  bitCount : s.eng.bitCount.toNat = k

theorem step_rising_edge {rise : Nat} {rest : List Event} (hok : s.par.ok = true)
    (hphase : s.eng.phase = Phase.bitWaitLow) (hp : s.pending = answers .high rise false :: rest) :
    ∃ t, step s = .next t ∧ t.eng = { s.eng with tMark := rise % 2 ^ s.par.tsBits, phase := Phase.bitWaitHigh } ∧
      t.par = s.par ∧ t.pending = rest :=
  ⟨_, engine_step hok hp (i := .bitWaitLow) (by rw [hphase]; rfl) (.bitLow rfl rfl), rfl, rfl, rfl⟩

theorem step_falling_edge {k : Fin 40} {fall : Nat} {rest : List Event} (hok : s.par.ok = true)
    (hphase : s.eng.phase = Phase.bitWaitHigh) (hk : s.eng.bitCount.toNat = k.val)
    (hp : s.pending = answers .low fall false :: rest) :
    ∃ t, step s = .next t ∧ t.eng = (captureBit k (fall % 2 ^ s.par.tsBits) s).eng ∧
      t.par = s.par ∧ t.pending = rest :=
  ⟨_, engine_step hok hp (i := .bitWaitHigh) (by rw [hphase]; rfl) (.bitHigh rfl rfl k hk), rfl, rfl, rfl⟩

/-- The two edges of a pulse capture the bit measured between them. -/
theorem run_pulse {k : Fin 40} {rise fall : Nat} {rest : List Event} (hok : s.par.ok = true)
    (hs : Capturing k.val s) (hp : s.pending = pulseEvents rise fall ++ rest) :
    ∃ t, Sys2Proof.core.run 2 s = .next t ∧ Capturing (k.val + 1) t ∧ t.par = s.par ∧ t.pending = rest ∧
      t.eng.frame = s.eng.frame.capture k (measuredBit s.par rise fall) := by
  have hphase : s.eng.phase = Phase.bitWaitLow := by rw [hs.phase, if_neg k.isLt.ne]
  obtain ⟨u, hrise, hu, hupar, hupending⟩ := step_rising_edge hok hphase hp
  obtain ⟨t, hfall, ht, htpar, htpending⟩ :=
    step_falling_edge (k := k) (by rw [hupar]; exact hok) (by rw [hu]) (by rw [hu]; exact hs.bitCount) hupending
  refine ⟨t, (run_succ 1 hrise).trans (run_succ 0 hfall), ⟨?_, ?_⟩, htpar.trans hupar, htpending, ?_⟩
  · simp [ht]
  · simp [ht]
    omega
  · simp [ht, hu, hupar, measuredBit]

/-! ### The whole frame -/

/-- The pulses of consecutive capture bits up to the last: each bit of the frame stays, unless its pulse clears it. -/
theorem run_pulses (rise fall : Fin 40 → Nat) {rest : List Event} {ks : List (Fin 40)} {n : Nat}
    (hks : ks.map Fin.val = List.range' n ks.length) (hn : n + ks.length = 40) (hok : s.par.ok = true)
    (hs : Capturing n s) (hp : s.pending = ks.flatMap (fun k => pulseEvents (rise k) (fall k)) ++ rest) :
    ∃ t, Sys2Proof.core.run (2 * ks.length) s = .next t ∧ Capturing 40 t ∧ t.par = s.par ∧ t.pending = rest ∧
      ∀ j, t.eng.frame.bit j = (s.eng.frame.bit j && (decide (j ∉ ks) || measuredBit s.par (rise j) (fall j))) := by
  induction ks generalizing s n with
  | nil => exact ⟨s, rfl, by simpa [← hn] using hs, rfl, by simpa using hp, by simp⟩
  | cons k ks ih =>
    simp only [List.map_cons, List.length_cons, List.range'_succ, List.cons.injEq] at hks hn
    obtain ⟨rfl, hks⟩ := hks
    rw [List.flatMap_cons, List.append_assoc] at hp
    obtain ⟨u, hu, hucapturing, hupar, hupending, huframe⟩ := run_pulse hok hs hp
    obtain ⟨t, ht, htcapturing, htpar, htpending, htframe⟩ :=
      ih hks (by omega) (by rw [hupar]; exact hok) hucapturing hupending
    refine ⟨t, ?_, htcapturing, htpar.trans hupar, htpending, fun j => ?_⟩
    · rw [List.length_cons, Nat.mul_succ, Nat.add_comm, run_add 2 _ s u hu, ht]
    · rw [htframe, huframe, hupar, Frame.bit_capture]
      by_cases hj : j = k <;> simp +contextual [hj]

/-- Forty pulses from a fresh frame give the frame of the forty measured bits (41_protocol_driver.md R120). -/
theorem run_forty_pulses (rise fall : Fin 40 → Nat) {rest : List Event} (hok : s.par.ok = true)
    (hphase : s.eng.phase = Phase.bitWaitLow) (hcount : s.eng.bitCount = 0#6) (hframe : s.eng.frame = Frame.fresh)
    (hp : s.pending = (List.finRange 40).flatMap (fun k => pulseEvents (rise k) (fall k)) ++ rest) :
    ∃ t, Sys2Proof.core.run 80 s = .next t ∧ Capturing 40 t ∧ t.par = s.par ∧ t.pending = rest ∧
      ∀ j, t.eng.frame.bit j = measuredBit s.par (rise j) (fall j) := by
  obtain ⟨t, hrun, ht, hpar, hpending, hbits⟩ :=
    run_pulses rise fall (n := 0) (by decide) (by simp) hok ⟨by simp [hphase], by simp [hcount]⟩ hp
  refine ⟨t, by simpa using hrun, ht, hpar, hpending, fun j => ?_⟩
  simpa [hframe, Frame.bit_fresh] using hbits j

/-- Under the default threshold 70 µs of High is a 1 and 27 µs is a 0, whenever the pulse begins. -/
theorem measuredBit_highTime (b : Bool) (rise : Nat) : measuredBit {} rise (rise + highTime b) = b := by
  rw [measuredBit, elapsed_add_lt (by cases b <;> decide)]
  cases b <;> rfl

/-- In VALIDATE an engine step saves the verdict on the frame and keeps the frame. -/
theorem step_validate {d : Draw} {rest : List Event} (hok : s.par.ok = true) (hphase : s.eng.phase = Phase.validate)
    (hp : s.pending = .engine d :: rest) :
    ∃ t, step s = .next t ∧ t.eng.phase = Phase.attemptEnd ∧ t.eng.frame = s.eng.frame ∧
      t.eng.attOut = s.eng.frame.verdict ∧ t.pending = rest := by
  have hd : decodePhase s.eng.phase = .ok .validate := by rw [hphase]; rfl
  by_cases hv : s.eng.frame.verdict = .success
  · exact ⟨_, engine_step hok hp hd (.accepted hv), rfl, rfl, hv.symm, rfl⟩
  · exact ⟨_, engine_step hok hp hd (.rejected hv), rfl, rfl, rfl, rfl⟩

/-- Settles O33: the FRAME lines are forty pulses, each measured as the bit it stands for, and a frame is its 40 bits. -/
theorem everyFrameCanBeCaptured : Obligations.EveryFrameCanBeCaptured := by
  intro s f start d rest hpar hphase hcount hframe hp
  have hok : s.par.ok = true := by rw [hpar]; decide
  obtain ⟨t, hrun, ht, htpar, hpending, hbits⟩ :=
    run_forty_pulses (fun k => start + 100 * k.val) (fun k => start + 100 * k.val + highTime (f.bit k)) hok hphase
      hcount hframe hp
  have hf : t.eng.frame = f := Frame.ext_bits _ _ fun k => by rw [hbits, hpar, measuredBit_highTime]
  obtain ⟨u, hstep, huphase, huframe, huattOut, hupending⟩ :=
    step_validate (by rw [htpar]; exact hok) ht.phase hpending
  refine ⟨⟨t, hrun, ht.phase, hf⟩, u, ?_, huphase, huframe.trans hf, by rw [huattOut, hf], hupending⟩
  exact (run_add 80 1 s t hrun).trans (run_succ 0 hstep)

end Sys2Proof.Machine
end

section
/-! The successor sets of 30_encoding.md R81: phase operations stay in them, every member is reached, and the host
leaves a phase by an accepted START only. -/

namespace Sys2Proof.Machine

variable {s t : State} {i : Instr}

/-! ### Phase operations -/

/-- A phase operation other than IDLE goes to a phase of its phase's set. -/
theorem PhaseNext.phase_mem_successors (h : PhaseNext s i t) (hd : decodePhase s.eng.phase = .ok i)
    (hidle : s.eng.phase ≠ Phase.idle) : t.eng.phase ∈ successors s.eng.phase := by
  have hc := decodePhase_eq_ok_iff.1 hd
  cases h
  case idle => exact absurd (phase_eq hd rfl) hidle
  case pollFailed hi | pollExpired hi | pollAgain hi =>
    simp only [waits, List.mem_cons, Prod.mk.injEq, List.not_mem_nil, or_false] at hi
    rcases hi with ⟨rfl, -⟩ | ⟨rfl, -⟩ | ⟨rfl, -⟩ | ⟨rfl, -⟩ <;> simp [phase_eq hd rfl, successors]
  case bitHigh k hk =>
    simp only [phase_eq hd rfl, captureBit_eng]
    split <;> simp [successors]
  all_goals
    simp only [encode, Code.phase.injEq] at hc
    simp [← hc, successors]

/-! ### Every successor occurs -/

/-- Some engine step in phase `p` goes to phase `q`. -/
def Leads (p q : BitVec 4) : Prop :=
  ∃ (i : Instr) (s t : State), s.eng.phase = p ∧ decode (.phase p) = .ok i ∧ exec i s = .next t ∧ t.eng.phase = q

theorem PhaseNext.leads (h : PhaseNext s i t) (hd : decodePhase s.eng.phase = .ok i) :
    Leads s.eng.phase t.eng.phase :=
  ⟨i, s, t, rfl, hd, phase_next h, rfl⟩

/-- The reset state put into phase `p`, with the answers `lv` and `err` to its next step. -/
def probe (p : BitVec 4) (lv : Level) (err : Bool) : State :=
  { State.reset with eng.phase := p, draw := { lv := lv, t := 0, err := err } }

/-- A wait stays in its phase while the awaited level lasts, and aborts on a line error. -/
theorem leads_of_waits {p : BitVec 4} {l : Level} (hd : decodePhase p = .ok i) (hi : (i, l) ∈ waits) :
    Leads p p ∧ Leads p Phase.attemptEnd :=
  ⟨(PhaseNext.pollAgain (s := probe p l false) i l hi rfl rfl rfl).leads hd,
   (PhaseNext.pollFailed (s := probe p l true) i l hi rfl).leads hd⟩

/-- Every member of a phase's set is where one case of its operation leads. -/
theorem leads_of_mem_successors {p q : BitVec 4} (hp : p ≠ Phase.idle) (hq : q ∈ successors p) : Leads p q := by
  have hpn : p = BitVec.ofNat 4 p.toNat := by simp
  unfold successors at hq
  split at hq
  case h_12 => cases hq
  all_goals
    rename_i hn
    rw [hn] at hpn
    subst hpn
    simp only [List.mem_cons, List.not_mem_nil, or_false] at hq
  · exact absurd rfl hp
  · obtain rfl | rfl := hq
    · exact (PhaseNext.init (s := probe Phase.attemptInit .high false) rfl).leads rfl
    · exact (PhaseNext.initFailed (s := probe Phase.attemptInit .high true) rfl).leads rfl
  · obtain rfl | rfl | rfl := hq
    · exact (PhaseNext.sample (s := probe Phase.idleCheck .high false) rfl rfl (by decide)).leads rfl
    · exact (PhaseNext.sampleLast (s := { probe Phase.idleCheck .high false with eng.idleCount := 9#4 })
        rfl rfl rfl).leads rfl
    · exact (PhaseNext.sampleFailed (s := probe Phase.idleCheck .high true) rfl).leads rfl
  · obtain rfl | rfl := hq
    · exact (PhaseNext.low (s := probe Phase.startLow .high false) rfl).leads rfl
    · exact (PhaseNext.lowFailed (s := probe Phase.startLow .high true) rfl).leads rfl
  · obtain rfl | rfl := hq
    · exact (PhaseNext.high (s := probe Phase.startHigh .high false) rfl).leads rfl
    · exact (PhaseNext.highFailed (s := probe Phase.startHigh .high true) rfl).leads rfl
  · obtain ⟨again, failed⟩ := leads_of_waits (p := Phase.ackWaitLow) (i := .ackWaitLow) (l := .high) rfl (by simp)
    obtain rfl | rfl | rfl := hq
    exacts [again, (PhaseNext.ackLow (s := probe Phase.ackWaitLow .low false) rfl rfl).leads rfl, failed]
  · obtain ⟨again, failed⟩ := leads_of_waits (p := Phase.ackWaitHigh) (i := .ackWaitHigh) (l := .low) rfl (by simp)
    obtain rfl | rfl | rfl := hq
    exacts [again, (PhaseNext.ackHigh (s := probe Phase.ackWaitHigh .high false) rfl rfl).leads rfl, failed]
  · obtain ⟨again, failed⟩ := leads_of_waits (p := Phase.bitWaitLow) (i := .bitWaitLow) (l := .low) rfl (by simp)
    obtain rfl | rfl | rfl := hq
    exacts [again, (PhaseNext.bitLow (s := probe Phase.bitWaitLow .high false) rfl rfl).leads rfl, failed]
  · obtain ⟨again, failed⟩ := leads_of_waits (p := Phase.bitWaitHigh) (i := .bitWaitHigh) (l := .high) rfl (by simp)
    obtain rfl | rfl | rfl | rfl := hq
    · exact (PhaseNext.bitHigh (s := probe Phase.bitWaitHigh .low false) rfl rfl 0 rfl).leads rfl
    · exact again
    · exact (PhaseNext.bitHigh (s := { probe Phase.bitWaitHigh .low false with eng.bitCount := 39#6 })
        rfl rfl 39 rfl).leads rfl
    · exact failed
  · obtain rfl := hq
    exact (PhaseNext.rejected (s := probe Phase.validate .high false) (by decide)).leads rfl
  · obtain rfl | rfl := hq
    · exact (PhaseNext.succeeded (s := { probe Phase.attemptEnd .high false with eng.attOut := .success })
        rfl).leads rfl
    · exact (PhaseNext.retried (s := probe Phase.attemptEnd .high false) (by decide) (by decide)).leads rfl

/-! ### Host accesses -/

/-- A host access other than an accepted START leaves the phase as it is. -/
theorem PortNext.phase_or_startAccepted (h : PortNext s i t) (hi : i ≠ .reset) :
    t.eng.phase = s.eng.phase ∨
    ∃ v, i = .start v ∧ s.eng.busy = false ∧ ctrlRetries v ≠ 0#8 ∧ t = s.startAccepted v := by
  cases h
  case startAccepted v hb hn => exact .inr ⟨v, rfl, hb, hn, rfl⟩
  case reset => exact absurd rfl hi
  case wrCtrlBusy v hb | startBusy v hb => exact .inl (by simp)
  all_goals exact .inl rfl

theorem exec_start_accepted {v : Word} (hb : s.eng.busy = false) (hn : ctrlRetries v ≠ 0#8) :
    exec (.start v) s = .next (s.startAccepted v) := by
  simp [exec, execStart, hb, hn]

theorem FlagsInv.busy_false_iff {e : Engine} (hf : FlagsInv e) : e.busy = false ↔ e.phase = Phase.idle := by
  rw [← Bool.not_eq_true, hf.busy_iff, not_not]

/-- Settles O28: the cases of the phase operations stay in the sets and reach every member, and of the host accesses
only an accepted START writes the phase. -/
theorem phasesFollowTheSuccessorSets : Obligations.PhasesFollowTheSuccessorSets := by
  refine ⟨fun i s t hp hd h => ?_, fun s t a rest hs hp h => ?_, fun p q => leads_of_mem_successors,
    fun q s v rest hq hs hok hphase hbit hn hp => ?_⟩
  · exact (phase_cases (decodePhase_ok hd).1 h).phase_mem_successors hd hp
  · rcases (host_step_cases hp h).phase_or_startAccepted (decodeAccess_ne_reset a) with
      hsame | ⟨v, hv, hb, hn, rfl⟩
    · exact .inl hsame
    · obtain ⟨hbit, ha⟩ := decodeAccess_eq_start_iff.1 hv
      exact .inr ⟨hs.flags.busy_false_iff.1 hb, by simp [successors], v, ha, hbit, hn⟩
  · obtain rfl : q = Phase.attemptInit := by simpa [successors] using hq
    have hbusy := hs.flags.busy_false_iff.2 hphase
    have hd : decode (codeOfAccess (.write 4 0x00#8 v)) = .ok (.start v) := by
      rw [decode_codeOfAccess, decodeAccess_eq_start_iff.2 ⟨hbit, rfl⟩]
    rw [step_of_pending_cons hok hp hd]
    exact ⟨_, exec_start_accepted hbusy hn, rfl⟩

end Sys2Proof.Machine
end

section
/-! The Line Interface: what a step issues (40_line_interface.md R97, R98, R100, R105, R109), and the end of a bounded
wait under the fairness of the time base (R107, 41_protocol_driver.md R110). -/

namespace Sys2Proof.Machine

variable {s t : State} {i : Instr}

/-! ### What a step issues -/

/-- RESET issues the release of the line, and a host access issues nothing. -/
theorem PortNext.issued_cases (h : PortNext s i t) :
    (i = .reset ∧ t.issued = [.setDir s.eng.cfgPin .inPD]) ∨ (i ≠ .reset ∧ t.issued = s.issued) := by
  cases h
  case reset => exact .inl ⟨rfl, rfl⟩
  all_goals exact .inr ⟨by simp, by simp⟩

/-- Every line operation among the primitives `ps` carries the pin `b`. -/
def OnPin (b : Byte) (ps : List Prim) : Prop :=
  ∀ p ∈ ps, ∀ b', p.pin = some b' → b' = b

theorem PhaseNext.issues_on_pin (h : PhaseNext s i t) (hi : s.issued = []) : OnPin s.eng.cfgPin t.issued := by
  cases h <;> simp [OnPin, Prim.pin, pollPrims, hi]

theorem PortNext.issues_on_pin (h : PortNext s i t) (hi : s.issued = []) : OnPin s.eng.cfgPin t.issued := by
  rcases h.issued_cases with ⟨-, ht⟩ | ⟨-, ht⟩ <;> simp [OnPin, Prim.pin, ht, hi]

/-- Settles O44: a step begins with nothing issued, and the event changes no register before its operation runs. -/
theorem everyLineOperationCarriesThePin : Obligations.EveryLineOperationCarriesThePin := by
  intro s s' h
  obtain ⟨-, e, s0, hn, hcase⟩ := step_by_event h
  obtain ⟨heng, -, -⟩ := nextEvent_fields hn
  rw [← heng, ← s0.begin_eng e]
  rcases hcase with ⟨d, i, -, -, hnext⟩ | ⟨a, -, hnext⟩ | ⟨-, hnext⟩ <;>
    exact hnext.issues_on_pin (s0.begin_issued e)

/-- Settles O46: outside a transaction an engine step is IDLE's, and no host access is RESET. -/
theorem idleEngineLeavesTheLineAlone : Obligations.IdleEngineLeavesTheLineAlone := by
  intro s s' e rest hs hbusy hp hrst h
  cases e with
  | rst => exact absurd rfl hrst
  | engine d =>
    obtain ⟨i, hd, hnext⟩ := engine_step_cases hp h
    obtain rfl := hs.flags.idle_of_not_busy hbusy hd
    rw [hnext.of_idle]
  | host a =>
    rcases (host_step_cases hp h).issued_cases with ⟨hreset, -⟩ | ⟨-, hissued⟩
    · exact absurd hreset (decodeAccess_ne_reset a)
    · exact hissued

/-- IDLE_CHECK and the waits read the input that `LineInv` gives them, START_HIGH writes the output it gives, and
START_LOW turns the line round before it writes. -/
theorem PhaseNext.follows_lineDiscipline (h : PhaseNext s i t) (hd : decodePhase s.eng.phase = .ok i)
    (hl : LineInv s.par s.eng) (hi : s.issued = []) : lineDiscipline s.eng.lineDir t.issued = true := by
  cases h
  case sampleFailed | sampleLow | sampleLast | sample =>
    have hin := hl.reads_input (.inl (phase_eq hd rfl))
    simp [lineDiscipline, hin]
  case pollFailed hw | pollExpired hw | pollAgain hw =>
    have hin := hl.reads_input (.inr (phase_of_waits hd hw))
    simp [lineDiscipline, pollPrims, hin]
  case ackLow | ackHigh | bitLow | bitHigh =>
    have hin := hl.reads_input (.inr (by simp [phase_eq hd rfl]))
    simp [lineDiscipline, pollPrims, hin]
  case highFailed | high =>
    have hout := hl.drives_output (phase_eq hd rfl)
    simp [lineDiscipline, hout]
  case lowFailed | low => simp [lineDiscipline, Prim.dirAfter]
  case idle | accepted | rejected => simp [lineDiscipline, hi]
  case initFailed | init | succeeded | exhausted | retried => simp [lineDiscipline]

theorem PortNext.follows_lineDiscipline (h : PortNext s i t) (hi : s.issued = []) (d : Dir) :
    lineDiscipline d t.issued = true := by
  rcases h.issued_cases with ⟨-, ht⟩ | ⟨-, ht⟩ <;> simp [lineDiscipline, ht, hi]

/-- Settles O43: the invariant has the line an input in the reading phases and an output in START_HIGH. -/
theorem levelsAreWrittenAsOutputAndReadAsInput : Obligations.LevelsAreWrittenAsOutputAndReadAsInput := by
  intro s s' hs h
  obtain ⟨-, e, s0, hn, hcase⟩ := step_by_event h
  obtain ⟨heng, -, -⟩ := nextEvent_fields hn
  have hissued := s0.begin_issued e
  rcases hcase with ⟨d, i, -, hd, hnext⟩ | ⟨a, -, hnext⟩ | ⟨-, hnext⟩
  · simpa [heng] using hnext.follows_lineDiscipline (by simpa [heng] using hd) (hs.begin hn).line hissued
  · exact hnext.follows_lineDiscipline hissued _
  · exact hnext.follows_lineDiscipline hissued _

/-! ### The end of a bounded wait -/

theorem level_unique_of_waits {l l' : Level} (h : (i, l) ∈ waits) (h' : (i, l') ∈ waits) : l' = l := by
  simp only [waits, List.mem_cons, Prod.mk.injEq, List.not_mem_nil, or_false] at h
  rcases h with ⟨rfl, rfl⟩ | ⟨rfl, rfl⟩ | ⟨rfl, rfl⟩ | ⟨rfl, rfl⟩ <;> simpa using h'

/-- A wait that has not left its phase saw no error and no edge, and its bound is not reached (R110). -/
theorem PhaseNext.polls_again_of_stays {l : Level} (h : PhaseNext s i t) (hd : decodePhase s.eng.phase = .ok i)
    (hi : (i, l) ∈ waits) (hstay : t.eng.phase = s.eng.phase) :
    s.draw.err = false ∧ s.draw.lv = l ∧ timedOut s.par (elapsed s.par.tsBits s.now s.eng.tMark) = false ∧
      t = s.issue (pollPrims s) := by
  cases h
  case pollAgain l' he hl ht hi' =>
    obtain rfl := level_unique_of_waits hi hi'
    exact ⟨he, hl, ht, rfl⟩
  case pollFailed | pollExpired =>
    obtain ⟨-, h8⟩ := phase_of_waits hd hi
    rw [← hstay] at h8
    exact absurd h8 (by simp)
  case ackLow | ackHigh | bitLow => simp [phase_eq hd rfl] at hstay
  case bitHigh k hk =>
    simp only [phase_eq hd rfl, captureBit_eng] at hstay
    split at hstay <;> simp at hstay
  all_goals simp at hi

/-- The four wait phases are those of the wait operations. -/
theorem decodePhase_of_wait_phase {p : BitVec 4} {l : Level}
    (h : (p, l) ∈ [(Phase.ackWaitLow, Level.high), (Phase.ackWaitHigh, Level.low), (Phase.bitWaitLow, Level.low),
      (Phase.bitWaitHigh, Level.high)]) : ∃ i, decodePhase p = .ok i ∧ (i, l) ∈ waits := by
  simp only [List.mem_cons, Prod.mk.injEq, List.not_mem_nil, or_false] at h
  rcases h with ⟨rfl, rfl⟩ | ⟨rfl, rfl⟩ | ⟨rfl, rfl⟩ | ⟨rfl, rfl⟩
  exacts [⟨.ackWaitLow, rfl, by simp⟩, ⟨.ackWaitHigh, rfl, by simp⟩, ⟨.bitWaitLow, rfl, by simp⟩,
    ⟨.bitWaitHigh, rfl, by simp⟩]

/-- The answers `d` end the wait for another level than `h` in state `s` under the bound `w` (R110). -/
def EndsWait (s : State) (h : Level) (w : Nat) (d : Draw) : Prop :=
  d.err = true ∨ d.lv ≠ h ∨ w ≤ elapsed s.par.tsBits (d.t % 2 ^ s.par.tsBits) s.eng.tMark

/-- One poll of a good state leaves the wait phase, or it did not end the wait and changes nothing the next poll
depends on. -/
theorem State.Inv.poll {h : Level} {w : Nat} {d : Draw} {rest : List Event} (hs : s.Inv) (hok : s.par.ok = true)
    (hw : s.par.waitTimeoutUs = some w) (hd : decodePhase s.eng.phase = .ok i) (hi : (i, h) ∈ waits)
    (hp : s.pending = .engine d :: rest) :
    ∃ t, step s = .next t ∧ (t.eng.phase ≠ s.eng.phase ∨
      ¬ EndsWait s h w d ∧ t.eng = s.eng ∧ t.par = s.par ∧ t.pending = rest) := by
  obtain ⟨t, hnext⟩ := PhaseNext.exists_next
    (s := { s with pending := rest, draw := d, issued := [], readData := none }) (decodePhase_ok hd).1
    fun hi => hs.counters.bit_count_capture (.inr (phase_eq hd (hi ▸ rfl)))
  refine ⟨t, engine_step hok hp hd hnext, ?_⟩
  by_cases hstay : t.eng.phase = s.eng.phase
  · obtain ⟨he, hl, ht, rfl⟩ := hnext.polls_again_of_stays hd hi hstay
    refine .inr ⟨?_, rfl, rfl, rfl⟩
    rintro (herr | hedge | hbound)
    · simp [herr] at he
    · exact hedge hl
    · exact Bool.false_ne_true (ht.symm.trans ((timedOut_some _ _ _ hw).2 hbound))
  · exact .inl hstay

/-- Settles O31, by induction on the recorded polls: the first either leaves the phase, or an ending poll is among the
others and the state they start from is the same to them. -/
theorem boundedWaitsEndUnderFairness : Obligations.BoundedWaitsEndUnderFairness := by
  intro s h w ds rest hs hok hw hphase hp hend
  induction ds generalizing s with
  | nil => simp at hend
  | cons d ds ih =>
    obtain ⟨i, hd, hi⟩ := decodePhase_of_wait_phase hphase
    obtain ⟨t, hstep, hleft | ⟨hnot, heng, hpar, hpending⟩⟩ := hs.poll hok hw hd hi hp
    · exact ⟨1, t, by simp, run_succ 0 hstep, hleft⟩
    · have hlater : ∃ d' ∈ ds, EndsWait s h w d' := by
        obtain ⟨d', hmem, hends⟩ := hend
        rcases List.mem_cons.1 hmem with rfl | hmem
        · exact absurd hends hnot
        · exact ⟨d', hmem, hends⟩
      obtain ⟨n, u, hn, hrun, hleft⟩ :=
        ih t (step_keeps_inv hs hstep) (hpar ▸ hok) (hpar ▸ hw) (heng ▸ hphase) hpending
          (by rw [heng, hpar]; exact hlater)
      exact ⟨n + 1, u, by simpa using hn, (run_succ n hstep).trans hrun, heng ▸ hleft⟩

end Sys2Proof.Machine
end

section
/-! The capture of a frame from pulses (41_protocol_driver.md R118, R120): BIT_WAIT_HIGH's byte write, its stop beyond
the 40th bit, and the frame of forty pulses. -/

namespace Sys2Proof.Machine

/-- Settles O32: forty pulses give the measured bits, and a measured bit is the test of the elapsed time. -/
theorem capturedFrameHoldsThePulseWidths : Obligations.CapturedFrameHoldsThePulseWidths := by
  intro s rise fall rest hok hphase hcount hframe hp
  obtain ⟨t, hrun, ht, -, hpending, hbits⟩ := run_forty_pulses rise fall hok hphase hcount hframe hp
  refine ⟨t, hrun, ht.phase, BitVec.eq_of_toNat_eq ht.bitCount, hpending, fun k => ?_⟩
  rw [hbits, measuredBit, pulseBit_eq_true, elapsed_mod_left, elapsed_mod_right]

/-! ### The wait bound as the statements of R110 write it -/

theorem timedOut_eq_true_iff {p : Params} {d : Nat} :
    timedOut p d = true ↔ ∃ w, p.waitTimeoutUs = some w ∧ w ≤ d := by
  unfold timedOut
  cases p.waitTimeoutUs <;> simp

theorem timedOut_eq_false_iff {p : Params} {d : Nat} :
    timedOut p d = false ↔ ∀ w, p.waitTimeoutUs = some w → d < w := by
  rw [← Bool.not_eq_true, timedOut_eq_true_iff]
  simp

/-! ### BIT_WAIT_HIGH -/

/-- Clearing capture bit `k` writes byte `k div 8` and no other. -/
theorem Frame.byte_clearBit (f : Frame) (k : Fin 40) (j : Fin 5) :
    (f.clearBit k).byte j =
      if j.val = k.val / 8 then f.byte j &&& ~~~(1#8 <<< (7 - k.val % 8)) else f.byte j := by
  unfold Frame.clearBit
  by_cases hj : j.val = k.val / 8
  · obtain rfl : j = captureByte k := Fin.ext hj
    rw [Frame.byte_setByte_self, if_pos hj, capturePos]
  · have hne : j ≠ captureByte k := fun h => hj (congrArg Fin.val h)
    rw [Frame.byte_setByte_ne _ _ _ _ hne, if_neg hj]

/-- Settles O24: the four cases of a poll, and the edge captures the decoded bit. -/
theorem bitWaitHighCapturesOneBit : Obligations.BitWaitHighCapturesOneBit := by
  refine ⟨rfl, ?_⟩
  rintro s now d hnow rfl
  obtain rfl : now = s.now := hnow
  refine ⟨fun he => phase_next (.pollFailed _ .high (by simp) he), fun he hl k hk hlt => ?_,
    fun he hl hw => phase_next (.pollExpired _ .high (by simp) he hl (timedOut_eq_true_iff.2 hw)),
    fun he hl hw => phase_next (.pollAgain _ .high (by simp) he hl (timedOut_eq_false_iff.2 hw))⟩
  refine ⟨s.eng.frame.capture ⟨k, hlt⟩ (pulseBit s.par (elapsed s.par.tsBits s.now s.eng.tMark)),
    phase_next (.bitHigh he hl ⟨k, hlt⟩ hk.symm), fun hlong => ?_, fun hshort j => ?_⟩
  · rw [(pulseBit_eq_true _ _).2 hlong, Frame.capture_true]
  · rw [(pulseBit_eq_false _ _).2 hshort, Frame.capture_false, Frame.byte_clearBit]

/-- Settles O25: at the edge the operation asks for the frame bit, and there is none. -/
theorem noFrameBitBeyondForty : Obligations.NoFrameBitBeyondForty := by
  intro s he hl h40
  have hnone : ¬ (s.issue (pollPrims s)).eng.bitCount.toNat < 40 := Nat.not_lt.2 h40
  unfold exec execBitWaitHigh
  rw [wait_edge he (by simp [hl]), dif_neg hnone, State.issue_eng]

end Sys2Proof.Machine
end

section
/-! The phases before the capture, one operation at a time (41_protocol_driver.md R111 to R117). -/

namespace Sys2Proof.Machine

variable {i : Instr}

/-- Settles O18: ATTEMPT_INIT's two cases. -/
theorem attemptInitBeginsAFreshAttempt : Obligations.AttemptInitBeginsAFreshAttempt := by
  refine ⟨rfl, ?_⟩
  rintro s fresh - rfl
  exact ⟨fun he => phase_next (.init he), fun he => phase_next (.initFailed he)⟩

/-- Settles O19: IDLE_CHECK's four cases. -/
theorem idleCheckTakesOneSample : Obligations.IdleCheckTakesOneSample :=
  ⟨rfl, fun _ _ => ⟨fun he => phase_next (.sampleFailed he), fun he hl => phase_next (.sampleLow he hl),
    fun he hl hn => phase_next (.sampleLast he hl hn), fun he hl hn => phase_next (.sample he hl hn)⟩⟩

/-- Settles O20: START_LOW's two cases. -/
theorem startLowDrivesTheLineLow : Obligations.StartLowDrivesTheLineLow :=
  ⟨rfl, fun _ => ⟨fun he => phase_next (.lowFailed he), fun he => phase_next (.low he)⟩⟩

/-- Settles O21: START_HIGH's two cases. -/
theorem startHighReleasesTheLine : Obligations.StartHighReleasesTheLine :=
  ⟨rfl, fun _ => ⟨fun he => phase_next (.highFailed he), fun he => phase_next (.high he)⟩⟩

/-- The waits that only enter the next phase: each in its phase, for its level, with the phase it enters. -/
theorem simpleWait_enters {code after : BitVec 4} {h : Level}
    (hmem : (i, code, h, after) ∈ [(Instr.ackWaitLow, 0b0101#4, Level.high, 6#4),
      (Instr.ackWaitHigh, 0b0110#4, Level.low, 7#4), (Instr.bitWaitLow, 0b0111#4, Level.low, 8#4)]) :
    decodePhase code = .ok i ∧ (i, h) ∈ waits ∧
      ∀ s : State, s.draw.err = false → s.draw.lv ≠ h →
        PhaseNext s i ((s.issue (pollPrims s)).enter s.now after) := by
  simp only [List.mem_cons, Prod.mk.injEq, List.not_mem_nil, or_false] at hmem
  rcases hmem with ⟨rfl, rfl, rfl, rfl⟩ | ⟨rfl, rfl, rfl, rfl⟩ | ⟨rfl, rfl, rfl, rfl⟩
  · exact ⟨rfl, by simp, fun s he hl => .ackLow he (Level.ne_high.1 hl)⟩
  · exact ⟨rfl, by simp, fun s he hl => .ackHigh he (Level.ne_low.1 hl)⟩
  · exact ⟨rfl, by simp, fun s he hl => .bitLow he (Level.ne_low.1 hl)⟩

/-- Settles O23: the four cases of a poll, the edge entering the next phase. -/
theorem simpleWaitsPollOnce : Obligations.SimpleWaitsPollOnce := by
  intro i code h after hmem
  obtain ⟨hd, hi, hedge⟩ := simpleWait_enters hmem
  refine ⟨hd, ?_⟩
  rintro s now d rfl rfl
  exact ⟨fun he => phase_next (.pollFailed _ h hi he), fun he hl => phase_next (hedge s he hl),
    fun he hl hw => phase_next (.pollExpired _ h hi he hl (timedOut_eq_true_iff.2 hw)),
    fun he hl hw => phase_next (.pollAgain _ h hi he hl (timedOut_eq_false_iff.2 hw))⟩

end Sys2Proof.Machine
end

section
/-! Runs of one phase: the High samples of IDLE_CHECK (41_protocol_driver.md R112) and the polls of an unbounded wait
(R122). -/

namespace Sys2Proof.Machine

variable {s : State} {i : Instr}

/-! ### The High samples of IDLE_CHECK -/

/-- The engine has counted `m` High samples: it takes more of them, or has them all and is to start. -/
structure Sampled (m : Nat) (s : State) : Prop where
  phase : s.eng.phase = if m = s.par.nIdleSamples then Phase.startLow else Phase.idleCheck
  idleCount : s.eng.idleCount.toNat = m

theorem State.countSample_idleCount (hc : s.eng.idleCount.toNat < 15) :
    s.countSample.eng.idleCount.toNat = s.eng.idleCount.toNat + 1 :=
  BitVec.toNat_add_of_lt (Nat.succ_lt_succ hc)

/-- A High sample before the last is counted, and the last leads on. -/
theorem step_high_sample {m time : Nat} {rest : List Event} (hok : s.par.ok = true) (hs : Sampled m s)
    (hm : m < s.par.nIdleSamples) (hp : s.pending = answers .high time false :: rest) :
    ∃ t, step s = .next t ∧ Sampled (m + 1) t ∧ t.par = s.par ∧ t.pending = rest := by
  have hphase : s.eng.phase = Phase.idleCheck := by rw [hs.phase, if_neg hm.ne]
  have hd : decodePhase s.eng.phase = .ok .idleCheck := by rw [hphase]; rfl
  obtain ⟨-, hmax⟩ := nIdleSamples_bounds hok
  have hcount : s.countSample.eng.idleCount.toNat = m + 1 := by
    rw [State.countSample_idleCount (by rw [hs.idleCount]; omega), hs.idleCount]
  by_cases hlast : m + 1 = s.par.nIdleSamples
  · exact ⟨_, engine_step hok hp hd (.sampleLast rfl rfl (hs.idleCount.symm ▸ hlast)),
      ⟨(if_pos hlast).symm, hcount⟩, rfl, rfl⟩
  · exact ⟨_, engine_step hok hp hd (.sample rfl rfl (hs.idleCount.symm ▸ hlast)),
      ⟨hphase.trans (if_neg hlast).symm, hcount⟩, rfl, rfl⟩

theorem run_high_samples {m : Nat} {ts : List Nat} {rest : List Event} (hok : s.par.ok = true) (hs : Sampled m s)
    (hm : m + ts.length ≤ s.par.nIdleSamples)
    (hp : s.pending = ts.map (fun time => answers .high time false) ++ rest) :
    ∃ t, Sys2Proof.core.run ts.length s = .next t ∧ Sampled (m + ts.length) t ∧ t.par = s.par ∧
      t.pending = rest := by
  induction ts generalizing s m with
  | nil => exact ⟨s, rfl, hs, rfl, hp⟩
  | cons time ts ih =>
    rw [List.length_cons] at hm
    obtain ⟨u, hstep, hu, hupar, hupending⟩ := step_high_sample hok hs (by omega) hp
    obtain ⟨t, hrun, ht, htpar, htpending⟩ := ih (hupar ▸ hok) hu (by rw [hupar]; omega) hupending
    refine ⟨t, (run_succ _ hstep).trans hrun, ?_, htpar.trans hupar, htpending⟩
    rwa [List.length_cons, Nat.add_comm ts.length, ← Nat.add_assoc]

/-- Settles O29: no sample is counted at first, and a configuration asks for one at least. -/
theorem idleCheckTakesExactlyTheSampleCount : Obligations.IdleCheckTakesExactlyTheSampleCount := by
  intro s ts rest hok hphase hcount hp hlen
  have hpos : 0 ≠ s.par.nIdleSamples := (Nat.ne_of_lt (nIdleSamples_bounds hok).1)
  have hs : Sampled 0 s := ⟨by rw [hphase, if_neg hpos], by rw [hcount]; rfl⟩
  obtain ⟨t, hrun, ht, hpar, hpending⟩ := run_high_samples hok hs (by omega) hp
  rw [Nat.zero_add] at ht
  exact ⟨t, hrun, ht.idleCount, hpending, hpar ▸ ht.phase⟩

/-! ### The unbounded wait -/

/-- Without a bound a poll that sees neither an error nor the edge leaves the engine as it was. -/
theorem step_unbounded_poll {h : Level} {time : Nat} {rest : List Event} (hok : s.par.ok = true)
    (hw : s.par.waitTimeoutUs = none) (hd : decodePhase s.eng.phase = .ok i) (hi : (i, h) ∈ waits)
    (hp : s.pending = answers h time false :: rest) :
    ∃ t, step s = .next t ∧ t.eng = s.eng ∧ t.diag = s.diag ∧ t.par = s.par ∧ t.pending = rest :=
  ⟨_, engine_step hok hp hd (.pollAgain i h hi rfl rfl (timedOut_none _ hw _)), rfl, rfl, rfl, rfl⟩

/-- Settles O30, by induction on the polls: each leaves what the next one depends on. -/
theorem baselineWaitsPollForever : Obligations.BaselineWaitsPollForever := by
  refine ⟨⟨_, rfl⟩, fun s h ts rest hok hw hphase hp => ?_⟩
  obtain ⟨i, hd, hi⟩ := decodePhase_of_wait_phase hphase
  clear hphase
  induction ts generalizing s with
  | nil => exact ⟨s, rfl, rfl, rfl, hp⟩
  | cons time ts ih =>
    obtain ⟨u, hstep, hueng, hudiag, hupar, hupending⟩ := step_unbounded_poll hok hw hd hi hp
    obtain ⟨t, hrun, hteng, htdiag, htpending⟩ := ih u (hupar ▸ hok) (hupar ▸ hw) hupending (hueng ▸ hd)
    exact ⟨t, (run_succ _ hstep).trans hrun, hteng.trans hueng, htdiag.trans hudiag, htpending⟩

end Sys2Proof.Machine
end

section
/-! The Frame Validator: what VALIDATE makes of a frame (42_frame_validator.md R124 to R135). -/

namespace Sys2Proof.Machine

variable {s t : State}

/-! ### The verdict, a case at a time (R129) -/

namespace Frame

variable {f : Frame}

theorem verdict_of_mismatch (hc : f.checksum ≠ f.b4.toNat) : f.verdict = .checksumMismatch :=
  if_neg fun hok => hc (f.checksumOk_iff.1 hok)

/-- Past the checksum the range decides. -/
theorem verdict_of_match (hc : f.checksum = f.b4.toNat) :
    f.verdict = if f.inRange then .success else .rangeInvalid :=
  if_pos (f.checksumOk_iff.2 hc)

theorem verdict_of_out_of_range (hc : f.checksum = f.b4.toNat) (hr : ¬ (f.hum10 ≤ 1000 ∧ f.temp10 ≤ 800)) :
    f.verdict = .rangeInvalid :=
  (verdict_of_match hc).trans (if_neg fun hin => hr (f.inRange_iff.1 hin))

theorem verdict_of_in_range (hc : f.checksum = f.b4.toNat) (hr : f.hum10 ≤ 1000 ∧ f.temp10 ≤ 800) :
    f.verdict = .success :=
  (verdict_of_match hc).trans (if_pos (f.inRange_iff.2 hr))

/-- A fifth byte that is the sum of the other four modulo 256 matches the checksum (R135). -/
theorem checksum_of_summed {b0 b1 b2 b3 : Byte}
    (hf : f = { b0 := b0, b1 := b1, b2 := b2, b3 := b3
                b4 := BitVec.ofNat 8 ((b0.toNat + b1.toNat + b2.toNat + b3.toNat) % 256) }) :
    f.checksum = f.b4.toNat := by
  subst hf
  rw [BitVec.toNat_ofNat]
  exact (Nat.mod_mod _ 256).symm

end Frame

/-! ### The operation (R128) -/

theorem validate_rejects {c : OutCode} (hv : s.eng.frame.verdict = c) (hc : c ≠ .success) :
    exec .validate s = .next { s with eng.attOut := c, eng.phase := Phase.attemptEnd } := by
  subst hv
  exact phase_next (.rejected hc)

/-- Tenths in range fit a reading register with the sign bit clear (R132). -/
theorem ofNat_tenths {n : Nat} (h : n ≤ 1000) :
    (BitVec.ofNat 16 n).toNat = n ∧ (BitVec.ofNat 16 n).toInt = n := by
  have hn : (BitVec.ofNat 16 n).toNat = n := by
    rw [BitVec.toNat_ofNat]
    exact Nat.mod_eq_of_lt (by omega)
  refine ⟨hn, ?_⟩
  rw [BitVec.toInt_eq_toNat_of_lt (by omega), hn]

/-- With a matching checksum VALIDATE tests the bounds, and within them it reads the exact tenths. -/
theorem validate_of_match (hc : s.eng.frame.checksum = s.eng.frame.b4.toNat) (h : exec .validate s = .next t) :
    ((s.eng.frame.hum10 ≤ 1000 ∧ s.eng.frame.temp10 ≤ 800) ∧ t.eng.attOut = .success ∧
      t.eng.readingHum.toNat = s.eng.frame.hum10 ∧ t.eng.readingTemp.toInt = s.eng.frame.temp10) ∨
    (¬ (s.eng.frame.hum10 ≤ 1000 ∧ s.eng.frame.temp10 ≤ 800) ∧ t.eng.attOut = .rangeInvalid) := by
  by_cases hr : s.eng.frame.hum10 ≤ 1000 ∧ s.eng.frame.temp10 ≤ 800
  · rw [phase_next (.accepted (Frame.verdict_of_in_range hc hr))] at h
    cases h
    exact .inl ⟨hr, rfl, (ofNat_tenths hr.1).1, (ofNat_tenths (hr.2.trans (by decide))).2⟩
  · rw [validate_rejects (Frame.verdict_of_out_of_range hc hr) (by decide)] at h
    cases h
    exact .inr ⟨hr, rfl⟩

/-- Settles O34: the three verdicts, each with the state VALIDATE makes of it. -/
theorem validateGivesTheVerdict : Obligations.ValidateGivesTheVerdict := by
  refine ⟨rfl, ?_⟩
  rintro s _ _ _ _ _ rfl rfl rfl rfl rfl
  exact ⟨fun hc => validate_rejects (Frame.verdict_of_mismatch hc) (by decide),
    fun hc hr => validate_rejects (Frame.verdict_of_out_of_range hc hr) (by decide),
    fun hc hr => phase_next (.accepted (Frame.verdict_of_in_range hc hr))⟩

/-- Settles O35: the checksum of such a frame matches, so the bounds decide. -/
theorem checksumRoundTrips : Obligations.ChecksumRoundTrips := by
  intro s b0 b1 b2 b3 hf
  obtain ⟨t, ht⟩ := PhaseNext.exists_next (s := s) (i := .validate) rfl nofun
  have h := phase_next ht
  have hcases := validate_of_match (Frame.checksum_of_summed hf) h
  rw [hf] at hcases
  rcases hcases with ⟨hr, hout, hreading⟩ | ⟨hr, hout⟩
  · exact ⟨t, h, by simp [hout], fun _ => ⟨hout, hreading⟩, fun hn => absurd hr hn⟩
  · exact ⟨t, h, by simp [hout], fun hn => absurd hn hr, fun _ => hout⟩

/-! ### The exact rational values (R124, R133) -/

theorem add_tenths_eq (whole tenths : Nat) :
    (whole : ℚ) + (tenths : ℚ) / 10 = ((10 * whole + tenths : Nat) : ℚ) / 10 := by
  push_cast
  ring

theorem tenths_le_iff (n m : Nat) : (n : ℚ) / 10 ≤ m ↔ n ≤ 10 * m := by
  rw [div_le_iff₀' (by norm_num)]
  exact_mod_cast Iff.rfl

/-- The bounds on the tenths are the source's closed intervals; the lower ends hold of every frame (R134). -/
theorem tenths_bounds_iff (hum temp : Nat) :
    hum ≤ 1000 ∧ temp ≤ 800 ↔
      0 ≤ (hum : ℚ) / 10 ∧ (hum : ℚ) / 10 ≤ 100 ∧ -40 ≤ (temp : ℚ) / 10 ∧ (temp : ℚ) / 10 ≤ 80 := by
  have hhum : (hum : ℚ) / 10 ≤ 100 ↔ hum ≤ 1000 := tenths_le_iff hum 100
  have htemp : (temp : ℚ) / 10 ≤ 80 ↔ temp ≤ 800 := tenths_le_iff temp 80
  have hhum0 : 0 ≤ (hum : ℚ) / 10 := by positivity
  have htemp0 : -40 ≤ (temp : ℚ) / 10 := le_trans (by norm_num) (by positivity : 0 ≤ (temp : ℚ) / 10)
  simp only [hhum, htemp, hhum0, htemp0, true_and]

/-- Settles O36: the values are the tenths divided by 10, so their intervals are the bounds VALIDATE tests. -/
theorem tenthsGiveTheRationalVerdict : Obligations.TenthsGiveTheRationalVerdict := by
  intro s t hum temp hhum htemp hc h
  obtain rfl : hum = (s.eng.frame.hum10 : ℚ) / 10 := hhum.trans (add_tenths_eq _ _)
  obtain rfl : temp = (s.eng.frame.temp10 : ℚ) / 10 := htemp.trans (add_tenths_eq _ _)
  rw [← tenths_bounds_iff]
  rcases validate_of_match hc h with ⟨hr, hout, hreadHum, hreadTemp⟩ | ⟨hr, hout⟩
  · refine ⟨iff_of_true hout hr, fun _ => ⟨by rw [hreadHum], ?_⟩⟩
    rw [hreadTemp, Int.cast_natCast]
  · have hfail : t.eng.attOut ≠ .success := by simp [hout]
    exact ⟨iff_of_false hfail hr, fun hs => absurd hs hfail⟩

end Sys2Proof.Machine
end

section
/-! The Retry Controller's operations (43_retry_controller.md R136 to R138): IDLE, ATTEMPT_END, and the diag history. -/

namespace Sys2Proof.Machine

variable {s t : State} {i : Instr}

/-- Settles O37: IDLE's meaning is the state it is given, and the step around it takes the event only. -/
theorem idleIsQuiescent : Obligations.IdleIsQuiescent := by
  refine ⟨rfl, fun _ => rfl, fun s d rest hok hphase hp => ?_⟩
  have hd : decodePhase s.eng.phase = .ok .idle := by rw [hphase]; rfl
  exact ⟨_, engine_step hok hp hd .idle, rfl, rfl, rfl, rfl⟩

/-- The release as one update: its error decides the recorded direction alone (40_line_interface.md R96). -/
theorem State.release_eq (s : State) : s.release = { s with
    eng := { s.eng with lineDir := if s.draw.err then s.eng.lineDir else .inPD }
    issued := [.setDir s.eng.cfgPin .inPD] } := by
  unfold State.release
  cases s.draw.err <;> rfl

theorem OutCode.ne_success_of_isFailure {c : OutCode} (hc : c.isFailure = true) : c ≠ .success := by
  rintro rfl
  cases hc

/-- Settles O38: ATTEMPT_END's three cases, each with the release written out. -/
theorem attemptEndConsumesTheOutcome : Obligations.AttemptEndConsumesTheOutcome := by
  refine ⟨rfl, ?_⟩
  rintro s _ rfl
  refine ⟨fun ha => ?_, ?_, ?_⟩
  · rw [phase_next (.succeeded ha), State.release_eq]
    rfl
  · rintro _ rfl hc hn
    rw [phase_next (.exhausted (OutCode.ne_success_of_isFailure hc) hn), State.release_eq]
    rfl
  · rintro _ rfl hc hn
    rw [phase_next (.retried (OutCode.ne_success_of_isFailure hc) hn), State.release_eq]
    rfl

/-! ### The diag history -/

/-- ATTEMPT_END records every outcome but SUCCESS. -/
theorem PhaseNext.attemptEnd_records (h : PhaseNext s .attemptEnd t) (ha : s.eng.attOut ≠ .success) :
    t.diag = s.diag ++ [{ attempt := s.eng.attempt, outcome := s.eng.attOut }] ∧ t.eng.lastFail = s.eng.attOut := by
  rcases h.of_attemptEnd with ⟨hsuccess, -⟩ | ⟨-, rfl⟩ | ⟨-, -, rfl⟩
  · exact absurd hsuccess ha
  all_goals simp

theorem PhaseNext.attemptEnd_success (h : PhaseNext s .attemptEnd t) (ha : s.eng.attOut = .success) :
    t = s.release.finish .success true := by
  rcases h.of_attemptEnd with ⟨-, rfl⟩ | ⟨hne, -⟩ | ⟨hne, -⟩
  · rfl
  all_goals exact absurd ha hne

theorem exec_keeps_diag (hi : i ≠ .attemptEnd) (h : exec i s = .next t) : t.diag = s.diag := by
  by_cases hphase : i.format = .phase4
  · obtain ⟨-, -, -, -, -, hdiag⟩ := (phase_cases hphase h).keeps_result hi
    exact hdiag
  · exact (port_cases hphase h).keeps_par_diag.2

/-- Settles O15: of all operations only ATTEMPT_END writes the history, and only for an outcome other than SUCCESS. -/
theorem oneDiagEventPerFailedAttempt : Obligations.OneDiagEventPerFailedAttempt := by
  intro i s t h
  by_cases hi : i = .attemptEnd
  · subst hi
    have hnext := phase_cases rfl h
    refine ⟨fun _ hfail => ?_, fun hor => ?_⟩
    · obtain ⟨hdiag, hlast⟩ := hnext.attemptEnd_records (OutCode.ne_success_of_isFailure hfail)
      exact ⟨hdiag, by simp [hdiag, Diag.word], hlast⟩
    · rw [hnext.attemptEnd_success (hor.resolve_left (not_not_intro rfl))]
      simp
  · exact ⟨fun h10 => absurd h10 hi, fun _ => exec_keeps_diag hi h⟩

end Sys2Proof.Machine
end

section
/-! The attempts of one transaction are counted by its diag events (43_retry_controller.md R140). -/

namespace Sys2Proof.Machine

variable {s t : State} {i : Instr} {base : Nat}

/-- `base` events were emitted before the transaction, and one for each of its attempts that has ended. -/
def DiagCounts (base : Nat) (s : State) : Prop :=
  s.diag.length = base + s.eng.endedAttempts

/-- The transaction has ended as it should: with the success of its last attempt, or with a failure of all attempts that
its budget allows (R140). -/
def EndsRight (base : Nat) (s : State) : Prop :=
  1 ≤ s.eng.attempt.toNat ∧
    ((s.eng.result = .success ∧ s.diag.length + 1 = base + s.eng.attempt.toNat) ∨
     (s.eng.result = .exhaustedRetries ∧ s.eng.attempt = s.eng.cfgMaxRetries ∧
      s.diag.length = base + s.eng.cfgMaxRetries.toNat))

theorem Engine.endedAttempts_due {e : Engine} (hp : e.phase = Phase.attemptInit) :
    e.endedAttempts = e.attempt.toNat :=
  if_pos hp

theorem Engine.endedAttempts_running {e : Engine} (hp : e.phase ≠ Phase.attemptInit) :
    e.endedAttempts = e.attempt.toNat - 1 :=
  if_neg hp

/-- Only ATTEMPT_END ends an attempt: starting one leaves those that have ended. -/
theorem PhaseNext.keeps_endedAttempts (h : PhaseNext s i t) (hd : decodePhase s.eng.phase = .ok i)
    (hk : AttemptInv s.eng) (hi : i ≠ .attemptEnd) : t.eng.endedAttempts = s.eng.endedAttempts := by
  by_cases h1 : i = .attemptInit
  · subst h1
    have hphase := phase_eq hd rfl
    have hlt := hk.lt hphase
    have hadd : (s.eng.attempt + 1#8).toNat = s.eng.attempt.toNat + 1 := by bv_omega
    rw [Engine.endedAttempts_due hphase]
    rcases h.of_attemptInit with rfl | rfl <;> simp [Engine.endedAttempts, hadd]
  · have hinit := phase_ne hd (j := .attemptInit) rfl h1
    have hend := phase_ne hd (j := .attemptEnd) rfl hi
    have hmove := h.phase_move hd
    have hinit' : t.eng.phase ≠ Phase.attemptInit := by bv_omega
    rw [Engine.endedAttempts_running hinit, Engine.endedAttempts_running hinit', h.keeps_attempt h1]

/-- ATTEMPT_END ends the attempt in progress: the transaction ends right, or the next attempt is due and the failed one
is counted. -/
theorem PhaseNext.attemptEnd_counts_or_endsRight (h : PhaseNext s .attemptEnd t)
    (hd : decodePhase s.eng.phase = .ok .attemptEnd) (hk : AttemptInv s.eng) (hbusy : s.eng.busy = true)
    (hdone : s.eng.done = false) (hc : DiagCounts base s) :
    (t.eng.busy = true → DiagCounts base t) ∧ (t.eng.done = true → EndsRight base t) := by
  have hphase : s.eng.phase ≠ Phase.attemptInit := phase_ne hd (j := .attemptInit) rfl nofun
  have hpos := hk.pos hbusy hphase
  have hle := hk.le hbusy
  rw [DiagCounts, Engine.endedAttempts_running hphase] at hc
  cases h with
  | succeeded ha =>
    refine ⟨nofun, fun _ => ⟨by simpa using hpos, .inl ⟨rfl, ?_⟩⟩⟩
    simpa using (by omega : s.diag.length + 1 = base + s.eng.attempt.toNat)
  | exhausted ha hn =>
    refine ⟨nofun, fun _ => ⟨by simpa using hpos, .inr ⟨rfl, ?_, ?_⟩⟩⟩
    · simpa using BitVec.eq_of_toNat_eq (Nat.le_antisymm hle hn)
    · simpa using (by omega : s.diag.length + 1 = base + s.eng.cfgMaxRetries.toNat)
  | retried ha hn =>
    refine ⟨fun _ => ?_, fun hdone' => by simp [hdone] at hdone'⟩
    rw [DiagCounts, Engine.endedAttempts_due rfl]
    simpa using (by omega : s.diag.length + 1 = base + s.eng.attempt.toNat)
  | pollFailed _ l hi | pollExpired _ l hi | pollAgain _ l hi => simp at hi

/-- While the transaction goes on its diag events count the ended attempts, and it ends right. -/
theorem PhaseNext.counts_or_endsRight (h : PhaseNext s i t) (hd : decodePhase s.eng.phase = .ok i)
    (hk : AttemptInv s.eng) (hbusy : s.eng.busy = true) (hdone : s.eng.done = false) (hc : DiagCounts base s) :
    (t.eng.busy = true → DiagCounts base t) ∧ (t.eng.done = true → EndsRight base t) := by
  by_cases h10 : i = .attemptEnd
  · subst h10
    exact h.attemptEnd_counts_or_endsRight hd hk hbusy hdone hc
  · obtain ⟨-, hdone', -, -, -, hdiag⟩ := h.keeps_result h10
    refine ⟨fun _ => ?_, fun ht => by simp [hdone', hdone] at ht⟩
    rw [DiagCounts, hdiag, h.keeps_endedAttempts hd hk h10]
    exact hc

/-- No phase operation starts an attempt beyond the budget. -/
theorem PhaseNext.attempt_le (h : PhaseNext s i t) (hd : decodePhase s.eng.phase = .ok i) (hk : AttemptInv s.eng)
    (hbusy : s.eng.busy = true) : t.eng.attempt.toNat ≤ t.eng.cfgMaxRetries.toNat := by
  obtain ⟨hcfg, -⟩ := h.keeps_context
  by_cases h10 : i = .attemptEnd
  · rw [h.keeps_attempt (by simp [h10]), hcfg]
    exact hk.le hbusy
  · obtain ⟨hbusy', -⟩ := h.keeps_result h10
    exact (h.keeps_attemptInv hd hk).le (hbusy'.trans hbusy)

/-- While a transaction runs a host access changes OVR at most (44_host_port.md R148, R153). -/
theorem PortNext.keeps_running (h : PortNext s i t) (hbusy : s.eng.busy = true) (hi : i ≠ .reset) :
    t.eng = { s.eng with ovr := t.eng.ovr } ∧ t.diag = s.diag := by
  refine ⟨?_, h.keeps_par_diag.2⟩
  cases h with
  | wrCtrl v hb | startRefused v hb | startAccepted v hb => simp [hbusy] at hb
  | reset => exact absurd rfl hi
  | wrCtrlBusy v | startBusy v => simp
  | rdCtrl | rdStatus | clearOvr | wrStatus | rdReading | wrReading | rdReserved | wrReserved => rfl

/-- Settles O39: only ATTEMPT_INIT starts an attempt and only ATTEMPT_END ends one; while the transaction runs the host
changes neither, and RESET leaves no attempt, no transaction and no DONE. -/
theorem transactionsCountTheirAttempts : Obligations.TransactionsCountTheirAttempts := by
  intro s s' base hs hbusy hc h
  obtain ⟨-, hdone, -⟩ := hs.flags.running (hs.flags.busy_iff.1 hbusy)
  obtain ⟨hk, -⟩ := countersInv_iff.1 hs.counters
  obtain ⟨-, e, s0, hn, hcase⟩ := step_by_event h
  obtain ⟨heng, hdiag, -⟩ := nextEvent_fields hn
  rw [← heng, ← s0.begin_eng e] at hbusy hdone hk hc ⊢
  rw [← hdiag, ← s0.begin_diag e] at hc
  rcases hcase with ⟨d, i, -, hd, hnext⟩ | ⟨a, -, hnext⟩ | ⟨-, hnext⟩
  · rw [← heng, ← s0.begin_eng e] at hd
    obtain ⟨hcfg, -⟩ := hnext.keeps_context
    obtain ⟨hcounts, hends⟩ := hnext.counts_or_endsRight hd hk hbusy hdone hc
    exact ⟨hnext.attempt_le hd hk hbusy, fun hb => ⟨hcfg, hcounts hb⟩, fun ht => ⟨hcfg, hends ht⟩⟩
  · obtain ⟨heng', hdiag'⟩ := hnext.keeps_running hbusy (decodeAccess_ne_reset a)
    rw [heng', hdiag']
    exact ⟨hk.le hbusy, fun _ => ⟨rfl, hc⟩, fun ht => absurd (hdone.symm.trans ht) Bool.false_ne_true⟩
  · cases hnext
    exact ⟨Nat.zero_le _, nofun, nofun⟩

end Sys2Proof.Machine
end

section
/-! The independence of attempts (43_retry_controller.md R142): ATTEMPT_INIT erases what earlier attempts left, and no
phase operation reads what `attemptView` ignores. -/

namespace Sys2Proof.Machine

variable {s s' t t' : State} {e e' : Engine} {i : Instr}

/-! ### What ATTEMPT_INIT erases -/

/-- The engine less the phase and all that the earlier attempts left: what a new attempt begins from. -/
def Engine.beforeAttempt (e : Engine) : Engine :=
  { e with frame := Frame.fresh, bitCount := 0#6, idleCount := 0#4, attOut := .none, tMark := 0,
           lastFail := .none, lineDir := .inPD, lineDrv := .low, phase := 0#4 }

/-- The engine less what outlives ATTEMPT_INIT of the earlier attempts; the direction does so when the release
failed. -/
def Engine.begunAttempt (e : Engine) (failed : Bool) : Engine :=
  { e with tMark := 0, lastFail := .none, lineDrv := .low, lineDir := if failed then .inPD else e.lineDir }

theorem attemptInit_erases_leftovers (hw : s.draw.err = s'.draw.err) (he : s.eng.beforeAttempt = s'.eng.beforeAttempt)
    (h : exec .attemptInit s = .next t) (h' : exec .attemptInit s' = .next t') :
    t.eng.begunAttempt s.draw.err = t'.eng.begunAttempt s.draw.err := by
  simp only [Engine.beforeAttempt, Engine.mk.injEq] at he
  cases herr : s.draw.err
  case' true =>
    rw [phase_next (.initFailed herr)] at h
    rw [phase_next (.initFailed (hw ▸ herr))] at h'
  case' false =>
    rw [phase_next (.init herr)] at h
    rw [phase_next (.init (hw ▸ herr))] at h'
  all_goals
    cases h
    cases h'
    simp [Engine.begunAttempt, he]

/-! ### What the phase operations do not read -/

/-- Once an attempt has begun, engines with the same view differ in LAST_FAIL, the line registers and, outside the
waits, the time mark. -/
theorem Engine.eq_update_of_attemptView (hv : e.attemptView = e'.attemptView) (hp : e.phase ≠ Phase.attemptInit) :
    e' = { e with lastFail := e'.lastFail, lineDir := e'.lineDir, lineDrv := e'.lineDrv, tMark := e'.tMark } ∧
    (5 ≤ e.phase.toNat ∧ e.phase.toNat ≤ 8 → e.tMark = e'.tMark) := by
  rw [Engine.attemptView_eq_iff] at hv
  cases e
  cases e'
  simp_all

theorem PhaseNext.attemptInit_of_attemptView (h : PhaseNext s .attemptInit t)
    (hv : s.eng.attemptView = s'.eng.attemptView) (hw : s.draw = s'.draw) :
    ∃ t', PhaseNext s' .attemptInit t' ∧ t.eng.attemptView = t'.eng.attemptView ∧ t.issued = t'.issued := by
  rw [Engine.attemptView_eq_iff] at hv
  cases h with
  | initFailed he => exact ⟨_, .initFailed (hw ▸ he), by simp [Engine.attemptView, hv], by simp [hv]⟩
  | init he => exact ⟨_, .init (hw ▸ he), by simp [Engine.attemptView, hv], by simp [hv]⟩
  | pollFailed _ l hi | pollExpired _ l hi | pollAgain _ l hi => simp at hi

/-- From engines with the same view the same case of the operation happens, with the same primitives, and leaves the
same view. Of what the view ignores only the waits read something, their time mark, and there the view shows it. -/
theorem PhaseNext.of_attemptView (h : PhaseNext s i t) (hd : decodePhase s.eng.phase = .ok i)
    (hv : s.eng.attemptView = s'.eng.attemptView) (hw : s.draw = s'.draw) (hp : s.par = s'.par)
    (hissued : s.issued = s'.issued) :
    ∃ t', PhaseNext s' i t' ∧ t.eng.attemptView = t'.eng.attemptView ∧ t.issued = t'.issued := by
  by_cases h1 : i = .attemptInit
  · subst h1
    exact h.attemptInit_of_attemptView hv hw
  obtain ⟨e', diag', par', draw', pending', freeCount', issued', readData'⟩ := s'
  obtain ⟨heng, hmark⟩ := Engine.eq_update_of_attemptView hv (phase_ne hd (j := .attemptInit) rfl h1)
  simp only at hv hw hp hissued heng hmark
  generalize e'.lastFail = c, e'.lineDir = dir, e'.lineDrv = drv, e'.tMark = m at heng hmark
  subst heng hw hp hissued
  cases h with
  | initFailed | init => exact absurd rfl h1
  | idle => exact ⟨_, .idle, hv, rfl⟩
  | sampleFailed he => exact ⟨_, .sampleFailed he, rfl, rfl⟩
  | sampleLow he hl => exact ⟨_, .sampleLow he hl, rfl, rfl⟩
  | sampleLast he hl hn => exact ⟨_, .sampleLast he hl hn, rfl, rfl⟩
  | sample he hl hn => exact ⟨_, .sample he hl hn, by simp [Engine.attemptView, phase_eq hd rfl], rfl⟩
  | lowFailed he => exact ⟨_, .lowFailed he, rfl, rfl⟩
  | low he => exact ⟨_, .low he, rfl, rfl⟩
  | highFailed he => exact ⟨_, .highFailed he, rfl, rfl⟩
  | high he => exact ⟨_, .high he, rfl, rfl⟩
  | pollFailed _ l hi he => exact ⟨_, .pollFailed _ l hi he, rfl, rfl⟩
  | pollExpired _ l hi he hl ht =>
    obtain rfl := hmark (phase_of_waits hd hi)
    exact ⟨_, .pollExpired _ l hi he hl ht, rfl, rfl⟩
  | pollAgain _ l hi he hl ht =>
    obtain rfl := hmark (phase_of_waits hd hi)
    exact ⟨_, .pollAgain _ l hi he hl ht, rfl, rfl⟩
  | ackLow he hl => exact ⟨_, .ackLow he hl, rfl, rfl⟩
  | ackHigh he hl => exact ⟨_, .ackHigh he hl, rfl, rfl⟩
  | bitLow he hl => exact ⟨_, .bitLow he hl, rfl, rfl⟩
  | bitHigh he hl k hk =>
    obtain rfl := hmark (by simp [phase_eq hd rfl])
    exact ⟨_, .bitHigh (by exact he) (by exact hl) k (by exact hk), rfl, rfl⟩
  | accepted hv => exact ⟨_, .accepted hv, rfl, rfl⟩
  | rejected hv => exact ⟨_, .rejected hv, rfl, rfl⟩
  | succeeded ha => exact ⟨_, .succeeded ha, by simp [Engine.attemptView], by simp⟩
  | exhausted ha hn => exact ⟨_, .exhausted ha hn, by simp [Engine.attemptView], by simp⟩
  | retried ha hn => exact ⟨_, .retried ha hn, by simp [Engine.attemptView], by simp⟩

/-! ### What a phase operation emits -/

/-- The events a phase operation emits depend on the attempt's number and, in ATTEMPT_END, its outcome. -/
theorem PhaseNext.emits_same (h : PhaseNext s i t) (h' : PhaseNext s' i t') (ha : s.eng.attempt = s'.eng.attempt)
    (ho : i = .attemptEnd → s.eng.attOut = s'.eng.attOut) :
    ∃ ds : List Diag, t.diag = s.diag ++ ds ∧ t'.diag = s'.diag ++ ds := by
  by_cases hi : i = .attemptEnd
  · subst hi
    have ho := ho rfl
    by_cases hsuccess : s.eng.attOut = .success
    · rw [h.attemptEnd_success hsuccess, h'.attemptEnd_success (ho ▸ hsuccess)]
      exact ⟨[], by simp⟩
    · obtain ⟨hdiag, -⟩ := h.attemptEnd_records hsuccess
      obtain ⟨hdiag', -⟩ := h'.attemptEnd_records (ho ▸ hsuccess)
      exact ⟨_, hdiag, by rw [hdiag', ha, ho]⟩
  · obtain ⟨-, -, -, -, -, hdiag⟩ := h.keeps_result hi
    obtain ⟨-, -, -, -, -, hdiag'⟩ := h'.keeps_result hi
    exact ⟨[], by simp [hdiag, hdiag']⟩

/-- Settles O40: ATTEMPT_INIT leaves nothing of earlier attempts but what no operation reads, and from the same view
every operation takes the same case. -/
theorem attemptsAreIndependent : Obligations.AttemptsAreIndependent := by
  refine ⟨fun s s' t t' => attemptInit_erases_leftovers, fun s s' t d rest rest' hpend hpend' hpar hv h => ?_⟩
  obtain ⟨hok, -⟩ := step_by_event h
  obtain ⟨i, hd, hnext⟩ := engine_step_cases hpend h
  obtain ⟨t', hnext', hview, hissued⟩ := hnext.of_attemptView
    (s' := { s' with pending := rest', draw := d, issued := [], readData := none }) hd hv rfl hpar rfl
  obtain ⟨hphase, -, -, -, -, -, hattempt, -, -, -, -, -, hrest⟩ := (Engine.attemptView_eq_iff _ _).1 hv
  have hemits := hnext.emits_same hnext' hattempt fun hi => by
    obtain ⟨-, -, -, hout⟩ := hrest (phase_ne hd (j := .attemptInit) rfl (by simp [hi]))
    exact hout
  exact ⟨t', engine_step (hpar ▸ hok) hpend' (hphase ▸ hd) hnext', hview, hissued, hemits⟩

end Sys2Proof.Machine
end

section
/-! The host port (44_host_port.md R146 to R159): each access's next state, the fields of the words it returns, and what
it leaves alone. -/

namespace Sys2Proof

/-- The offsets 0x0C to 0xFC are the reserved ones (30_encoding.md R83). -/
theorem reservedOff_of_le {off : Byte} (halign : off.toNat % 4 = 0) (hle : 0x0C ≤ off.toNat) :
    reservedOff off = true := by
  rw [reservedOff_iff, alignedOff_iff]
  refine ⟨halign, ?_, ?_, ?_⟩ <;> bv_omega

end Sys2Proof

namespace Sys2Proof.Machine

variable {s t : State} {i : Instr} {v : Word}

/-- The converse of `port_cases`: each case does happen. -/
theorem port_next (h : PortNext s i t) : exec i s = .next t := by
  cases h with
  | rdCtrl | rdStatus | rdReading | wrReading | rdReserved | wrReserved | reset => rfl
  | wrCtrlBusy v hb | wrCtrl v hb => simp [exec, execWrCtrl, hb]
  | startBusy v hb => simp [exec, execStart, hb]
  | startRefused v hb hn | startAccepted v hb hn => simp [exec, execStart, hb, hn]
  | clearOvr v hv | wrStatus v hv => simp [exec, execWrStatus, hv]

/-! ### The register words, field by field (10_state.md R40 to R42) -/

namespace Engine

variable (e : Engine)

/-- START reads 0 beside the seven bits above it that are 0 as well. -/
theorem ctrlWord_eq : e.ctrlWord = 0#8 ++ e.cfgPin ++ e.cfgMaxRetries ++ 0#7 ++ 0#1 :=
  (BitVec.append_assoc (x₂ := 0#7) (x₃ := 0#1)).symm

/-! STATUS: each field lies above the fields after it in the concatenation, which reading it drops one by one. -/

@[simp] theorem statusBusy_statusWord : statusBusy e.statusWord = e.busy := by
  unfold statusBusy statusWord
  rw [BitVec.getLsbD_append, if_pos (by decide)]
  simp

@[simp] theorem statusDone_statusWord : statusDone e.statusWord = e.done := by
  unfold statusDone statusWord
  rw [BitVec.getLsbD_append, if_neg (by decide), BitVec.getLsbD_append, if_pos (by decide)]
  simp

@[simp] theorem statusValid_statusWord : statusValid e.statusWord = e.valid := by
  unfold statusValid statusWord
  iterate 2 rw [BitVec.getLsbD_append, if_neg (by decide)]
  rw [BitVec.getLsbD_append, if_pos (by decide)]
  simp

@[simp] theorem statusOvr_statusWord : statusOvr e.statusWord = e.ovr := by
  unfold statusOvr statusWord
  iterate 3 rw [BitVec.getLsbD_append, if_neg (by decide)]
  rw [BitVec.getLsbD_append, if_pos (by decide)]
  simp

@[simp] theorem statusPhase_statusWord : statusPhase e.statusWord = e.phase := by
  unfold statusPhase statusWord
  iterate 4 rw [BitVec.extractLsb'_append_eq_of_le (by decide)]
  exact BitVec.extractLsb'_append_eq_right

@[simp] theorem statusResult_statusWord : statusResult e.statusWord = e.result.code := by
  unfold statusResult statusWord
  iterate 5 rw [BitVec.extractLsb'_append_eq_of_le (by decide)]
  exact BitVec.extractLsb'_append_eq_right

@[simp] theorem statusLastFail_statusWord : statusLastFail e.statusWord = e.lastFail.code := by
  unfold statusLastFail statusWord
  iterate 6 rw [BitVec.extractLsb'_append_eq_of_le (by decide)]
  exact BitVec.extractLsb'_append_eq_right

@[simp] theorem statusAttempt_statusWord : statusAttempt e.statusWord = e.attempt := by
  unfold statusAttempt statusWord
  iterate 7 rw [BitVec.extractLsb'_append_eq_of_le (by decide)]
  exact BitVec.extractLsb'_append_eq_right

@[simp] theorem statusBitCount_statusWord : statusBitCount e.statusWord = e.bitCount := by
  unfold statusBitCount statusWord
  iterate 8 rw [BitVec.extractLsb'_append_eq_of_le (by decide)]
  exact BitVec.extractLsb'_append_eq_right

theorem statusWord_unused : e.statusWord.extractLsb' 30 2 = 0#2 := by
  unfold statusWord
  iterate 8 rw [BitVec.extractLsb'_append_eq_of_le (by decide)]
  exact BitVec.extractLsb'_append_eq_left

/-! READING -/

theorem readingWord_of_valid {e : Engine} (hv : e.valid = true) :
    e.readingWord = e.readingTemp ++ e.readingHum :=
  if_pos hv

theorem readingWord_of_not_valid {e : Engine} (hv : e.valid = false) : e.readingWord = 0#32 :=
  if_neg (Bool.not_eq_true _ ▸ hv)

end Engine

/-- Settles O52: STATUS is read field by field. -/
theorem readStatusReturnsEveryField : Obligations.ReadStatusReturnsEveryField :=
  ⟨rfl, fun s => ⟨s.eng.statusWord, port_next .rdStatus, s.eng.statusBusy_statusWord, s.eng.statusDone_statusWord,
    s.eng.statusValid_statusWord, s.eng.statusOvr_statusWord, s.eng.statusPhase_statusWord,
    s.eng.statusResult_statusWord, s.eng.statusLastFail_statusWord, s.eng.statusAttempt_statusWord,
    s.eng.statusBitCount_statusWord, s.eng.statusWord_unused⟩⟩

/-- Settles O56: no host access decodes to RESET, and the others change OVR at most while busy. -/
theorem hostCannotDisturbARunningTransaction : Obligations.HostCannotDisturbARunningTransaction :=
  fun _ _ a _ hbusy hp h => (host_step_cases hp h).keeps_running hbusy (decodeAccess_ne_reset a)

/-! ### The result of the public operation -/

/-- DONE stands with one of the three ends of a transaction (10_state.md R26, 30_encoding.md R79). -/
theorem FlagsInv.ends_of_done {e : Engine} (hf : FlagsInv e) (hd : e.done = true) :
    e.result = .success ∨ e.result = .exhaustedRetries ∨ e.result = .configInvalid := by
  have hcode := hf.result_code
  have hnone := hf.done_iff.1 hd
  cases hr : e.result <;> simp [hr, OutCode.isResult] at hcode hnone ⊢

theorem sensorResult_of_success {e : Engine} (hd : e.done = true) (hr : e.result = .success) (hv : e.valid = true) :
    sensorResult e.statusWord e.readingWord = some (.ok e.readingHum.toNat e.readingTemp.toInt) := by
  have hum : (e.readingTemp ++ e.readingHum).extractLsb' 0 16 = e.readingHum :=
    BitVec.extractLsb'_append_eq_right
  have temp : (e.readingTemp ++ e.readingHum).extractLsb' 16 16 = e.readingTemp :=
    BitVec.extractLsb'_append_eq_left
  rw [Engine.readingWord_of_valid hv, sensorResult, hum, temp]
  simp [hd, hr]

theorem sensorResult_of_exhaustedRetries {e : Engine} {reading : Word} (hd : e.done = true)
    (hr : e.result = .exhaustedRetries) :
    sensorResult e.statusWord reading = some (.exhausted e.lastFail.code) := by
  simp [sensorResult, hd, hr, OutCode.code]

theorem sensorResult_of_configInvalid {e : Engine} {reading : Word} (hd : e.done = true)
    (hr : e.result = .configInvalid) : sensorResult e.statusWord reading = some .configuration := by
  simp [sensorResult, hd, hr, OutCode.code]

/-- Settles O59: the invariant gives the three ends and the range of the reading, whose temperature is therefore not
negative as a signed number. -/
theorem sensorResultReadsTheTransaction : Obligations.SensorResultReadsTheTransaction := by
  intro s hs hdone
  refine ⟨fun hr => ?_, sensorResult_of_exhaustedRetries hdone, sensorResult_of_configInvalid hdone,
    hs.flags.ends_of_done hdone⟩
  have htemp := hs.outcome.temp_range
  have hsigned : s.eng.readingTemp.toInt = s.eng.readingTemp.toNat := BitVec.toInt_eq_toNat_of_lt (by omega)
  exact ⟨_, _, sensorResult_of_success hdone hr (hs.flags.valid_iff.2 hr), rfl, rfl, hs.outcome.hum_range,
    by omega, by omega⟩

/-! ### The accesses, one at a time -/

/-- Settles O10: such an access is not served, so it decodes to REFUSED_ACCESS, whose meaning is the refusal. -/
theorem otherHostAccessesAreRefused : Obligations.OtherHostAccessesAreRefused := by
  intro a ha
  have hserved : a.served = false := by
    rw [← Bool.not_eq_true, a.served_iff, not_and_or]
    exact ha
  have hdecode : decode (codeOfAccess a) = .ok (.refusedAccess a) := by
    rw [decode_codeOfAccess, decodeAccess_refused a hserved]
  exact ⟨fun _ => rfl, hdecode, fun s rest hok hp => step_of_pending_cons hok hp hdecode⟩

/-- Settles O47: CTRL reads the configuration with START at 0. -/
theorem readCtrlReturnsTheConfiguration : Obligations.ReadCtrlReturnsTheConfiguration :=
  ⟨rfl, fun s => ⟨s.eng.ctrlWord, port_next .rdCtrl, s.eng.ctrlWord_eq⟩⟩

theorem decode_wrCtrl (hv : v.getLsbD 0 = false) :
    decode (codeOfAccess (.write 4 0x00#8 v)) = .ok (.wrCtrl v) :=
  decodeOfEncodeIsTheInstruction (.wrCtrl v) (by rw [Instr.wf, hv]; rfl)

theorem decode_start (hv : v.getLsbD 0 = true) : decode (codeOfAccess (.write 4 0x00#8 v)) = .ok (.start v) :=
  decodeOfEncodeIsTheInstruction (.start v) hv

/-- Settles O48: the access is WR_CTRL, in its case without a transaction. -/
theorem writeCtrlStoresTheConfiguration : Obligations.WriteCtrlStoresTheConfiguration :=
  fun _ v hbusy hv => ⟨decode_wrCtrl hv, port_next (.wrCtrl v hbusy)⟩

/-- Settles O49: bit 0 tells START from WR_CTRL, and `ctrlBusy` tests the same bit. -/
theorem ctrlWritesWhileBusyAreDropped : Obligations.CtrlWritesWhileBusyAreDropped := by
  refine fun s v hbusy => ⟨fun hv => ⟨decode_start hv, ?_⟩, fun hv => ⟨decode_wrCtrl hv, ?_⟩⟩
  · rw [port_next (.startBusy v hbusy), State.ctrlBusy, ctrlStart, if_pos hv]
  · rw [port_next (.wrCtrlBusy v hbusy), State.ctrlBusy, ctrlStart, hv]
    rfl

/-- Settles O50: the access is START, in its case of a retry count of 0. -/
theorem startWithZeroRetriesIsRefused : Obligations.StartWithZeroRetriesIsRefused := by
  intro s v hbusy hv hzero
  have hretries : ctrlRetries v = 0#8 := hzero
  refine ⟨decode_start hv, ?_⟩
  rw [port_next (.startRefused v hbusy hretries), State.startRefused, State.configure, hretries]
  rfl

/-- Settles O51: the access is START, in its case of another retry count. -/
theorem startBeginsATransaction : Obligations.StartBeginsATransaction := by
  intro s v hbusy hv hpos
  have hne : ctrlRetries v ≠ 0#8 := by
    intro hzero
    rw [show v.extractLsb' 8 8 = 0#8 from hzero] at hpos
    cases hpos
  exact ⟨decode_start hv, port_next (.startAccepted v hbusy hne)⟩

/-- Settles O53: WR_STATUS's two cases. -/
theorem writeStatusClearsOvr : Obligations.WriteStatusClearsOvr :=
  ⟨fun v => decodeOfEncodeIsTheInstruction (.wrStatus v) rfl,
    fun _ v => ⟨fun hv => port_next (.clearOvr v hv), fun hv => port_next (.wrStatus v hv)⟩⟩

/-- Settles O54: READING shows the reading registers with VALID only. -/
theorem readReadingReturnsOnlyValidReadings : Obligations.ReadReadingReturnsOnlyValidReadings := by
  refine ⟨rfl, fun s => ⟨fun hv => ?_, fun hv => ?_⟩⟩
  · rw [port_next .rdReading, Engine.readingWord_of_valid hv, State.answer]
  · rw [port_next .rdReading, Engine.readingWord_of_not_valid hv, State.answer]

/-- Settles O55: the offsets are reserved ones, and what they and a READING write select has no effect. -/
theorem reservedAndReadOnlyAccessesHaveNoEffect : Obligations.ReservedAndReadOnlyAccessesHaveNoEffect := by
  intro s off v halign hle
  have hoff := reservedOff_of_le halign hle
  exact ⟨decodeOfEncodeIsTheInstruction (.wrReading v) rfl, port_next (.wrReading v), port_next (.rdReserved off),
    port_next (.wrReserved off v), decodeOfEncodeIsTheInstruction (.rdReserved off) hoff,
    decodeOfEncodeIsTheInstruction (.wrReserved off v) hoff⟩

end Sys2Proof.Machine
end

section
/-! The exceptions: a line error aborts the attempt and does no more (60_exceptions.md R172, R173), and what moves
done_o (R171). -/

namespace Sys2Proof.Machine

variable {s t : State} {i : Instr}

/-- From IDLE_CHECK to BIT_WAIT_HIGH a line error aborts from the state as it was, less the primitives issued. -/
theorem PhaseNext.aborts_of_err (he : s.draw.err = true)
    (hi : i = .idleCheck ∨ i = .startLow ∨ i = .startHigh ∨ ∃ l, (i, l) ∈ waits) :
    ∃ ps, PhaseNext s i ((s.issue ps).raise .protocolFault) := by
  obtain rfl | rfl | rfl | ⟨l, hl⟩ := hi
  · exact ⟨_, .sampleFailed he⟩
  · exact ⟨_, .lowFailed he⟩
  · exact ⟨_, .highFailed he⟩
  · exact ⟨_, .pollFailed i l hl he⟩

/-- Settles O27: ATTEMPT_INIT aborts from the fresh attempt, the other phases from the state they are given. -/
theorem lineErrorsAbortPrecisely : Obligations.LineErrorsAbortPrecisely := by
  intro i hi s he
  rcases List.mem_cons.1 hi with rfl | hi
  · exact ⟨_, phase_next (.initFailed he), rfl, rfl, fun hne => absurd rfl hne, fun _ _ => rfl, rfl, rfl, rfl, rfl,
      rfl, rfl⟩
  · obtain ⟨ps, hnext⟩ : ∃ ps, PhaseNext s i ((s.issue ps).raise .protocolFault) :=
      PhaseNext.aborts_of_err he (by simpa [exists_or] using hi)
    have hne : i ≠ .attemptInit := by
      rintro rfl
      simp at hi
    exact ⟨_, phase_next hnext, rfl, rfl, fun _ => rfl, fun h => absurd h hne, rfl, rfl, rfl, rfl, rfl, rfl⟩

/-! ### The writes of DONE (10_state.md R23) -/

/-- Of the phase operations only ATTEMPT_END writes DONE, when it ends the transaction, and it sets it. -/
theorem PhaseNext.keeps_done_or_ends (h : PhaseNext s i t) :
    t.eng.done = s.eng.done ∨ (i = .attemptEnd ∧ t.eng.phase = Phase.idle ∧ t.eng.done = true) := by
  by_cases hi : i = .attemptEnd
  · subst hi
    rcases h.of_attemptEnd with ⟨-, rfl⟩ | ⟨-, rfl⟩ | ⟨-, -, rfl⟩
    · exact .inr ⟨rfl, rfl, rfl⟩
    · exact .inr ⟨rfl, rfl, rfl⟩
    · exact .inl (by simp)
  · obtain ⟨-, hdone, -⟩ := h.keeps_result hi
    exact .inl hdone

/-- Of the host accesses only a START that finds no transaction writes DONE: refused it sets it, accepted it clears
it. -/
theorem PortNext.keeps_done_or_starts (h : PortNext s i t) (hi : i ≠ .reset) :
    t.eng.done = s.eng.done ∨
    ∃ v, i = .start v ∧
      ((ctrlRetries v = 0#8 ∧ t.eng.done = true) ∨
       (ctrlRetries v ≠ 0#8 ∧ t.eng.done = false ∧ t.eng.busy = true)) := by
  cases h with
  | startRefused v _ hn => exact .inr ⟨v, rfl, .inl ⟨hn, rfl⟩⟩
  | startAccepted v _ hn => exact .inr ⟨v, rfl, .inr ⟨hn, rfl, rfl⟩⟩
  | reset => exact absurd rfl hi
  | wrCtrlBusy | startBusy => exact .inl (by simp)
  | rdCtrl | wrCtrl | rdStatus | clearOvr | wrStatus | rdReading | wrReading | rdReserved | wrReserved => exact .inl rfl

/-- Settles O58: done_o is DONE, and an event of each kind writes DONE as named or keeps it. -/
theorem doneOutputFollowsTheTransaction : Obligations.DoneOutputFollowsTheTransaction := by
  intro s s' e rest _ hp h
  unfold State.doneO
  cases e with
  | rst =>
    cases reset_step_cases hp h
    exact ⟨nofun, fun _ _ => .inl rfl⟩
  | engine d =>
    obtain ⟨i, hd, hnext⟩ := engine_step_cases hp h
    rcases hnext.keeps_done_or_ends with hsame | ⟨rfl, hidle, hset⟩
    · have hkept : s'.eng.done = s.eng.done := hsame
      simp +contextual [hkept]
    · exact ⟨fun _ _ => .inl ⟨⟨d, rfl⟩, phase_eq hd rfl, hidle⟩, fun _ hclear => by simp [hset] at hclear⟩
  | host a =>
    rcases (host_step_cases hp h).keeps_done_or_starts (decodeAccess_ne_reset a) with hsame | ⟨v, hv, hwrite⟩
    · have hkept : s'.eng.done = s.eng.done := hsame
      simp +contextual [hkept]
    · obtain ⟨hbit, rfl⟩ := decodeAccess_eq_start_iff.1 hv
      rcases hwrite with ⟨hn, hset⟩ | ⟨hn, hclear, hbusy⟩
      · exact ⟨fun _ _ => .inr ⟨v, rfl, hbit, hn⟩, fun _ hfall => by simp [hset] at hfall⟩
      · exact ⟨fun _ hrise => by simp [hclear] at hrise, fun _ _ => .inr ⟨v, rfl, hbit, hn, hbusy⟩⟩

end Sys2Proof.Machine
end

section
/-! RESET (70_reset_and_hazards.md R189), and what the launch premises carry through an attempt (R192). -/

namespace Sys2Proof.Machine

variable {s : State} {p : Params} {pin : Byte} {x : Surroundings} {n : Nat} {rest : List Event}

/-! ### RESET -/

/-- Of the parameters only the default retry count shows in the reset values (10_state.md R45). -/
theorem Engine.reset_of_default_retries (h : p.defaultMaxRetries = 5) : Engine.reset p = State.reset.eng := by
  unfold Engine.reset
  rw [h]
  rfl

/-- Settles O6: RESET has the one next state of `PortNext.reset`, whose words are those of the reset values. -/
theorem resetOperationRestoresEveryElement : Obligations.ResetOperationRestoresEveryElement := by
  refine ⟨rfl, fun s rest hok hp => step_of_pending_cons hok hp rfl, fun s => ?_⟩
  refine ⟨_, port_next .reset, rfl, ⟨_, rfl⟩, rfl, rfl, rfl, rfl, rfl, rfl, fun h5 => ?_⟩
  obtain ⟨-, hwords⟩ := resetValuesAreThoseOfTheTable
  rwa [← Engine.reset_of_default_retries h5] at hwords

/-! ### The beginning of an attempt in its surroundings -/

/-- ATTEMPT_INIT without an error leads to IDLE_CHECK with no sample taken (41_protocol_driver.md R111). -/
theorem step_attempt_begins {d : Draw} (hok : s.par.ok = true) (hphase : s.eng.phase = Phase.attemptInit)
    (hp : s.pending = .engine d :: rest) (he : d.err = false) :
    ∃ t, step s = .next t ∧ Sampled 0 t ∧ t.par = s.par ∧ t.pending = rest := by
  have hpos : 0 ≠ s.par.nIdleSamples := Nat.ne_of_lt (nIdleSamples_bounds hok).1
  exact ⟨_, engine_step hok hp (i := .attemptInit) (by rw [hphase]; rfl) (.init he), ⟨(if_neg hpos).symm, rfl⟩, rfl,
    rfl⟩

/-- A Low sample, at any sample still due, ends the attempt in BUSY_LINE (41_protocol_driver.md R112). -/
theorem step_low_sample {m : Nat} {d : Draw} (hok : s.par.ok = true) (hs : Sampled m s) (hm : m < s.par.nIdleSamples)
    (hp : s.pending = .engine d :: rest) (he : d.err = false) (hl : d.lv = .low) :
    ∃ t, step s = .next t ∧ t.eng.attOut = .busyLine ∧ t.eng.phase = Phase.attemptEnd ∧ t.pending = rest := by
  have hphase : s.eng.phase = Phase.idleCheck := by rw [hs.phase, if_neg hm.ne]
  exact ⟨_, engine_step hok hp (i := .idleCheck) (by rw [hphase]; rfl) (.sampleLow he hl), rfl, rfl, rfl⟩

/-- A failing ATTEMPT_INIT ends the attempt in PROTOCOL_FAULT (41_protocol_driver.md R111). -/
theorem step_attempt_fails {d : Draw} (hok : s.par.ok = true) (hphase : s.eng.phase = Phase.attemptInit)
    (hp : s.pending = .engine d :: rest) (he : d.err = true) :
    ∃ t, step s = .next t ∧ t.eng.attOut = .protocolFault ∧ t.eng.phase = Phase.attemptEnd ∧ t.pending = rest :=
  ⟨_, engine_step hok hp (i := .attemptInit) (by rw [hphase]; rfl) (.initFailed he), rfl, rfl, rfl⟩

/-! ### The clauses of R192 -/

theorem Surroundings.events_eq_map (x : Surroundings) (pin : Byte) (n m : Nat) :
    x.events pin n m = ((List.range' n m).map (x.draw pin)).map Event.engine :=
  List.map_map.symm

/-- Under the launch premises undisturbed steps are error-free High samples. -/
theorem LaunchPremises.events_high {m : Nat} (h : LaunchPremises p pin x)
    (hquiet : ∀ k, n ≤ k → k < n + m → x.fails k = false ∧ x.sensor k = false) :
    x.events pin n m = ((List.range' n m).map x.time).map (fun time => answers .high time false) := by
  rw [Surroundings.events, List.map_map]
  refine List.map_congr_left fun k hk => ?_
  obtain ⟨hn, hm⟩ := List.mem_range'_1.1 hk
  obtain ⟨hf, hsilent⟩ := hquiet k hn hm
  exact h.draw_high hsilent hf

/-- Under the launch premises an undisturbed attempt passes its Idle-Check (41_protocol_driver.md R112). -/
theorem LaunchPremises.idleCheck_passes (h : LaunchPremises s.par s.eng.cfgPin x) (hok : s.par.ok = true)
    (hphase : s.eng.phase = Phase.attemptInit)
    (hp : s.pending = x.events s.eng.cfgPin n (s.par.nIdleSamples + 1) ++ rest)
    (hquiet : ∀ k, n ≤ k → k ≤ n + s.par.nIdleSamples → x.fails k = false ∧ x.sensor k = false) :
    ∃ t, Sys2Proof.core.run (s.par.nIdleSamples + 1) s = .next t ∧ t.eng.phase = Phase.startLow ∧
      t.pending = rest := by
  obtain ⟨hfails, -⟩ := hquiet n le_rfl (by omega)
  rw [x.events_succ, List.cons_append] at hp
  obtain ⟨u, hstep, hu, hupar, hupending⟩ := step_attempt_begins hok hphase hp (by simp [h.line_ready, hfails])
  rw [h.events_high fun k hn hm => hquiet k (by omega) (by omega)] at hupending
  obtain ⟨t, hrun, ht, htpar, htpending⟩ := run_high_samples (hupar ▸ hok) hu (by simp [hupar]) hupending
  simp only [List.length_map, List.length_range', Nat.zero_add] at hrun ht
  exact ⟨t, (run_succ _ hstep).trans hrun, by rw [ht.phase, htpar, hupar, if_pos rfl], htpending⟩

/-- Under the launch premises a bounded wait ends: one of the polls up to the one that the fair time base promises is an
ending one (40_line_interface.md R107). -/
theorem LaunchPremises.bounded_wait_ends (hpre : LaunchPremises p pin x) (hok : p.ok = true) {w : Nat}
    (hw : p.waitTimeoutUs = some w) (n : Nat) (h : Level) : ∃ m : Nat,
      ∀ (s : State) (rest : List Event), s.Inv → s.par = p → s.eng.cfgPin = pin →
        (s.eng.phase, h) ∈ [(Phase.ackWaitLow, Level.high), (Phase.ackWaitHigh, Level.low),
          (Phase.bitWaitLow, Level.low), (Phase.bitWaitHigh, Level.high)] →
        s.eng.tMark = x.time n % 2 ^ p.tsBits → s.pending = x.events pin (n + 1) m ++ rest →
        ∃ j t, j ≤ m ∧ Sys2Proof.core.run j s = .next t ∧ t.eng.phase ≠ s.eng.phase := by
  obtain ⟨k, hnk, hends⟩ := hpre.time_base w hw n h
  refine ⟨k - n, fun s rest hs hpar _ hphase hmark hp => ?_⟩
  subst hpar
  rw [x.events_eq_map] at hp
  have hmem : x.draw pin k ∈ (List.range' (n + 1) (k - n)).map (x.draw pin) :=
    List.mem_map_of_mem (List.mem_range'_1.2 ⟨hnk, by omega⟩)
  obtain ⟨j, t, hj, hrun, hleft⟩ := boundedWaitsEndUnderFairness s h w _ rest hs hok hw hphase hp
    ⟨x.draw pin k, hmem, .inr (hmark ▸ hends)⟩
  exact ⟨j, t, by simpa using hj, hrun, hleft⟩

/-- An undisturbed attempt on a line that reads Low ends in BUSY_LINE at its first sample. -/
theorem low_line_ends_in_busyLine (hok : s.par.ok = true) (hready : x.ready s.eng.cfgPin = true)
    (hphase : s.eng.phase = Phase.attemptInit) (hp : s.pending = x.events s.eng.cfgPin n 2 ++ rest)
    (hinit : x.fails n = false) (hsample : x.fails (n + 1) = false) (hlow : x.level (n + 1) = .low) :
    ∃ t, Sys2Proof.core.run 2 s = .next t ∧ t.eng.attOut = .busyLine ∧ t.eng.phase = Phase.attemptEnd ∧
      t.pending = rest := by
  rw [x.events_succ, x.events_succ, x.events_zero] at hp
  obtain ⟨u, hstep, hu, hupar, hupending⟩ := step_attempt_begins hok hphase hp (by simp [hready, hinit])
  rw [← hupar] at hok
  obtain ⟨t, hstep', ht⟩ := step_low_sample hok hu (nIdleSamples_bounds hok).1 hupending
    (by simp [hready, hsample]) hlow
  exact ⟨t, (run_succ 1 hstep).trans (run_succ 0 hstep'), ht⟩

/-- Settles O60: the premises give the samples and the ending poll; without them the first sample or the first
operation ends the attempt. -/
theorem launchPremisesCarryAnAttempt : Obligations.LaunchPremisesCarryAnAttempt := by
  intro p pin x hok
  refine ⟨?_, fun hpre w hw => hpre.bounded_wait_ends hok hw, ?_, ?_⟩
  · rintro hpre s n rest rfl rfl hphase hp hquiet
    exact hpre.idleCheck_passes hok hphase hp hquiet
  · rintro hready hlow s n rest rfl rfl hphase hp hinit hsample hsensor hother
    exact low_line_ends_in_busyLine hok hready hphase hp hinit hsample (hlow _ hsensor hother)
  · rintro hunready s n rest rfl rfl hphase hp
    rw [x.events_succ] at hp
    exact step_attempt_fails hok hphase hp (by simp [hunready])

end Sys2Proof.Machine
end
